-- ==== Sys2Proof/Word.lean ====
section
/-! DEFINITION. The bit vectors of the block: one type for each bus or register width of the spec
(00_scope.md R4, 30_encoding.md R40, 10_state.md R10). Bit 0 is the least significant bit of every
bus and the top bit of a signed bus is its sign (20_memory.md R31); `BitVec.toInt` and
`BitVec.toNat` are the spec's `sint_W` and `uint_W`. -/

namespace Sys2Proof

/-- The command word `cmd_word`, `CMD_W = 16` bits (R4, R41). -/
abbrev CmdWord := BitVec 16

/-- The operand bus `cmd_data`, `RAW_W = 128` bits, signed two's complement (R4, R43). -/
abbrev RawBus := BitVec 128

/-- `VAL`, `LO`, `HI` and the response data, `VAL_W = 65` bits, signed two's complement (R4, R11). -/
abbrev ValWord := BitVec 65

end Sys2Proof
end

