-- ==== Sys2Proof/Config.lean ====
section
/-! DEFINITION. What an implementation fixes: the parameters of 00_scope.md R4, and the values the
spec leaves open as constants without a body, so that nothing can be proved of a particular value. -/

namespace Sys2Proof

/-- `BITS_MIN` (R4). -/
abbrev Config.bitsMin : Nat := 1

/-- `BITS_MAX` (R4). -/
abbrev Config.bitsMax : Nat := 64

/-- The greatest number the 7-bit `BITS` field of a command word can hold (R41). -/
abbrev Config.bitsFieldMax : Nat := 127

/-- The bit-widths of the named variants (R4, R110). -/
def Config.catalogWidths : List Nat := [8, 16, 32, 64]

/-- FREE VALUE (log entry 5): how many cycles beyond the first the n-th accepted command takes. The
spec leaves the latency open (R4, R148: `LAT >= 1`, the same for every command or not). -/
opaque Config.latExtra : Nat → Nat

/-- `LAT` of the n-th accepted command; at least 1, as R4 says. -/
def Config.lat (n : Nat) : Nat := Config.latExtra n + 1

/-- FREE VALUE (log entry 6): what `rsp_status`, `rsp_data0` and `rsp_data1` carry in cycle `n` when
`rsp_valid = 0` (R40, U7: unspecified). -/
opaque Config.freeStatus : Nat → BitVec 2

/-- FREE VALUE (log entry 6): `rsp_data0` in cycle `n` when `rsp_valid = 0`. -/
opaque Config.freeData0 : Nat → ValWord

/-- FREE VALUE (log entry 6): `rsp_data1` in cycle `n` when `rsp_valid = 0`. -/
opaque Config.freeData1 : Nat → ValWord

end Sys2Proof
end

