-- ==== Sys2Proof/Syntax.lean ====
section
/-! DEFINITION. The six commands (30_encoding.md R44), one constructor for each row of
spec/opcode_table.json, and the two enumerations their fields decode to. The raw operand is no part
of the command word (R43): it stands on the bus `cmd_data`, which the machine's state holds.
`VALOF`, `NEW` and `RANGE` are the assembler's other names for these commands (R49, R95) and are in
Machine/Assembler.lean. -/

namespace Sys2Proof

/-- The family of a range, field `SGN` (R12, R41): 0 = unsigned, 1 = signed. -/
inductive Family where
  | unsigned
  | signed
deriving DecidableEq, Repr

/-- The boundary policy, field `POL` (R16, R41): 0 = Wrap, 1 = Clamp. -/
inductive Policy where
  | wrap
  | clamp
deriving DecidableEq, Repr

/-- A command. `bits` is the number in the field `BITS`, 0 .. 127 in a well-formed command. -/
inductive Instr where
  /-- `CONS`: construct an instance from the operand `DATA` (R91). -/
  | cons (pol : Policy) (sgn : Family) (bits : Nat)
  /-- `CONSZ`: construct an instance from 0 (R92). -/
  | consz (pol : Policy) (sgn : Family) (bits : Nat)
  /-- `SET`: write the value with the operand `DATA` (R93). -/
  | set
  /-- `GET`: read the value, re-normalizing it (R94). -/
  | get
  /-- `URANGE`: the unsigned range of a bit-width (R64). -/
  | urange (bits : Nat)
  /-- `SRANGE`: the signed range of a bit-width (R65). -/
  | srange (bits : Nat)
deriving DecidableEq, Repr

/-- The row of spec/opcode_table.json a command belongs to. -/
def Instr.mnemonic : Instr → String
  | .cons _ _ _ => "CONS"
  | .consz _ _ _ => "CONSZ"
  | .set => "SET"
  | .get => "GET"
  | .urange _ => "URANGE"
  | .srange _ => "SRANGE"

end Sys2Proof
end

