-- ==== Sys2Proof/Machine/State.lean ====
section
/-! DEFINITION. The state of the block as plain data (10_state.md R10): seven named fields in five
registers. Beside them stand three fields of the MODEL's own, because the host's `step` takes no
argument and gives no output: what the host will drive on the command port (`host`), the operand bus
at the last acceptance (`cmdData`) and the response port (`rsp`). There is no program counter (R18),
no flag (R19), no memory (R30) and no other register (R23). -/

namespace Sys2Proof.Machine

/-- The configuration register `CFG` (R12); `Cfg.word` of Machine/Operands.lean is its 9-bit image. -/
structure Cfg where
  /-- `CFG.BITS`, 7 bits: the bit-width the range was derived from. -/
  bits : BitVec 7
  /-- `CFG.SGN`, 1 bit: the family. -/
  sgn : Family
  /-- `CFG.POL`, 1 bit: the policy. -/
  pol : Policy
deriving DecidableEq, Repr

/-- The status of a response (R47). -/
inductive Status where
  /-- The command was performed. -/
  | ok
  /-- The command word matches no row of the opcode table (R122). -/
  | illegalCmd
  /-- `BITS` is 0 or greater than 64 (R123). -/
  | badBits
  /-- SET or GET while no instance exists (R124). -/
  | notConstructed
deriving DecidableEq, Repr

/-- What the response port carries for one command (R40, R46). -/
structure Response where
  /-- `rsp_status`, as the name of its code. -/
  status : Status
  /-- `rsp_data0`. -/
  data0 : ValWord
  /-- `rsp_data1`. -/
  data1 : ValWord
deriving DecidableEq, Repr

/-- One thing the host does to the block (R35, R142). -/
inductive HostEvent where
  /-- The host asserts `rst` (R140). -/
  | reset
  /-- The host presents a command that the block accepts: `cmd_word` and `cmd_data` (R40). -/
  | command (word : CmdWord) (data : RawBus)
deriving DecidableEq, Repr

/-- The block, with the model's own view of its two ports. -/
structure State where
  /-- `CONSTRUCTED`, 1 bit: an instance exists (R14). -/
  constructed : Bool
  /-- `CFG`, 9 bits (R12). -/
  cfg : Cfg
  /-- `LO`, 65 bits signed: the lower bound (R13). -/
  lo : ValWord
  /-- `HI`, 65 bits signed: the upper bound (R13). -/
  hi : ValWord
  /-- `VAL`, 65 bits signed: the current numeric value (R11). -/
  val : ValWord
  /-- MODEL's own: `cmd_data` at the last acceptance; a command that takes an operand reads it here. -/
  cmdData : RawBus
  /-- MODEL's own: the response of the last step, `none` where that step answered no command. -/
  rsp : Option Response
  /-- MODEL's own: what the host will do next, first first. -/
  host : List HostEvent
deriving DecidableEq, Repr

/-- Why the machine stops. No step of the block stops: every command is answered (R40, R120). -/
inductive Fault where
  /-- Raised by the cycle-level `Port.edge` alone, never by `step`: the host presents a command while
  `cmd_ready = 0`, for which the spec defines no behaviour (R147, U12: "may treat it as stuck").
  Safe: the model stops where a block would go on in some way. -/
  | commandWhileBusy
deriving DecidableEq, Repr

/-- Why a command has no meaning. The spec's three refusals are no such stop: they are responses, and
the block goes on (R126). -/
inductive Refusal where
  /-- Raised by an arm of `exec` whose command is not modelled; no arm of this model raises it. Safe. -/
  | notModelled (mnemonic : String)
deriving DecidableEq, Repr

/-- The block right after reset: `CONSTRUCTED = 0` (R22, R141). DESIGN CHOICE (log entry 4): the spec
gives the other four registers no value, and the model resets each to zero. The host has nothing
lined up and no response is present (R141: `rsp_valid = 0`). -/
def State.reset : State :=
  { constructed := false
    cfg := ⟨0#7, .unsigned, .wrap⟩
    lo := 0#65
    hi := 0#65
    val := 0#65
    cmdData := 0#128
    rsp := none
    host := [] }

end Sys2Proof.Machine
end

