-- ==== Sys2Proof/Machine/Flags.lean ====
section
/-! DEFINITION. The block has no flags, condition codes or predicates (10_state.md R19). What a command
reports is the status of its response, which is not kept: its codes (R47), and the check of `BITS` that
chooses between two of them (R51). -/

namespace Sys2Proof.Machine

/-- The 2-bit code of a status, `rsp_status` (R47). -/
def Status.code : Status → BitVec 2
  | .ok => 0
  | .illegalCmd => 1
  | .badBits => 2
  | .notConstructed => 3

/-- `BITS` is legal: 1 .. 64 (R4); outside it CONS, CONSZ, URANGE and SRANGE raise BadBits (R123). -/
def bitsLegal (bits : Nat) : Bool :=
  decide (Config.bitsMin ≤ bits) && decide (bits ≤ Config.bitsMax)

end Sys2Proof.Machine
end

