-- ==== Sys2Proof/Machine/RangeDerivation.lean ====
section
/-! DEFINITION. The range deriver (40_range_derivation.md): two pure functions of a bit-width, on
exact integers (R5, R62). -/

namespace Sys2Proof.Machine

/-- A Range, the pair `(lo, hi)` (R15). -/
structure Range where
  lo : Int
  hi : Int
deriving DecidableEq, Repr

/-- `floor(r / 2)` (00_scope.md section 4). -/
def floorHalf (r : Int) : Int := Int.fdiv r 2

/-- `ceil(r / 2)` (00_scope.md section 4). -/
def ceilHalf (r : Int) : Int := -Int.fdiv (-r) 2

/-- `unsigned_range(bits) = (0, 2^bits - 1)` (R60). -/
def unsignedRange (bits : Nat) : Range := ⟨0, 2 ^ bits - 1⟩

/-- `signed_range(bits) = (-floor(r/2), ceil(r/2))` with `r = 2^bits - 1` (R61); not the
two's-complement range. -/
def signedRange (bits : Nat) : Range :=
  let r : Int := 2 ^ bits - 1
  ⟨-floorHalf r, ceilHalf r⟩

/-- `range_from_bits(bits, signed)` (R63). -/
def rangeFromBits (bits : Nat) (sgn : Family) : Range :=
  match sgn with
  | .unsigned => unsignedRange bits
  | .signed => signedRange bits

end Sys2Proof.Machine
end

