-- ==== Sys2Proof/Machine/Normalize.lean ====
section
/-! DEFINITION. The normalize core (41_normalize_core.md): four forms on exact integers, the two
datapath sub-blocks that compute them, and their dispatch. The formulas are the source's own, with
its two off-by-one peculiarities; 90_conflicts.md C1 to C6 say why they win. -/

namespace Sys2Proof.Machine

/-- The truncated remainder `a - n * trunc(a / n)` (00_scope.md section 4): the spec's reading of a
bare `mod` (R75). -/
def tmod (a n : Int) : Int := a - n * Int.tdiv a n

/-- The non-negative remainder `a - n * floor(a / n)` (00_scope.md section 4). -/
def emod (a n : Int) : Int := a - n * Int.fdiv a n

/-- `clamp3(x, a, b) = max(a, min(b, x))` (00_scope.md section 4). -/
def clamp3 (x a b : Int) : Int := max a (min b x)

/-- The correction of a remainder: "if `m < 0`, `m += n`" (R73, R74). -/
def correctRemainder (m n : Int) : Int := if m < 0 then m + n else m

/-- Clamp, unsigned form: `max(0, min(hi, raw))` (R71). -/
def clampUnsigned (raw hi : Int) : Int := max 0 (min hi raw)

/-- Clamp, signed form: `lo + max(0, min(width, raw))`; `raw` itself is clamped, not `raw - lo` (R72). -/
def clampSigned (raw lo hi : Int) : Int :=
  let width := hi - lo
  lo + max 0 (min width raw)

/-- Wrap, unsigned form: `raw mod hi`, corrected; the modulus is `hi`, not `hi + 1` (R73). -/
def wrapUnsigned (raw hi : Int) : Int := correctRemainder (tmod raw hi) hi

/-- Wrap, signed form: `((raw - lo) mod width)`, corrected, plus `lo` (R74). -/
def wrapSigned (raw lo hi : Int) : Int :=
  let width := hi - lo
  correctRemainder (tmod (raw - lo) width) width + lo

/-- The sub-block `range_clamp_saturator`, the datapath of the Clamp policy (R80). -/
def rangeClampSaturator (raw lo hi : Int) (sgn : Family) : Int :=
  match sgn with
  | .unsigned => clampUnsigned raw hi
  | .signed => clampSigned raw lo hi

/-- The sub-block `modular_wrapper`, the datapath of the Wrap policy (R81). -/
def modularWrapper (raw lo hi : Int) (sgn : Family) : Int :=
  match sgn with
  | .unsigned => wrapUnsigned raw hi
  | .signed => wrapSigned raw lo hi

/-- The spec's `normalize(raw, lo, hi, sgn, pol)` (R70): total, raises nothing (R77). Log entry 8: with
`hi - lo <= 0`, which no configuration of the block has (R79), its value means nothing. (Mathlib has a
`normalize` of its own.) -/
def normalizeRaw (raw lo hi : Int) (sgn : Family) (pol : Policy) : Int :=
  match pol with
  | .clamp => rangeClampSaturator raw lo hi sgn
  | .wrap => modularWrapper raw lo hi sgn

end Sys2Proof.Machine
end

