-- ==== Sys2Proof/WellFormed.lean ====
section
/-! DEFINITION. When a command can be written in a command word: its `BITS` number fits the 7-bit
field (30_encoding.md R41). A `BITS` of 0 or 65 .. 127 is well formed: it has a word, and the block
answers it with BadBits (R45, R123). -/

namespace Sys2Proof

/-- The number fits the field `BITS` (R41: 0 .. 127). -/
def bitsFieldFits (bits : Nat) : Bool := decide (bits ≤ Config.bitsFieldMax)

/-- The command has a command word. -/
def Instr.wellFormed : Instr → Bool
  | .cons _ _ bits => bitsFieldFits bits
  | .consz _ _ bits => bitsFieldFits bits
  | .set => true
  | .get => true
  | .urange bits => bitsFieldFits bits
  | .srange bits => bitsFieldFits bits

end Sys2Proof
end

