-- ==== Sys2Proof/Decode.lean ====
section
/-! DEFINITION. The command word: its fields, the decoder, the encoder and the opcode table
(30_encoding.md R41, R42, R44, R45, R48). -/

namespace Sys2Proof

/-- Why a command word is no command; each of these words is answered IllegalCmd (R45, R122). -/
inductive DecodeReject where
  /-- `RSV` is not 000. -/
  | reservedBits
  /-- `OP` is 0x0 or 0x6 .. 0xF. -/
  | unassignedOp
  /-- `POL`, `SGN` or `BITS` is not zero on SET or GET, or `POL = 1` on opcode 0x5. -/
  | unusedField
deriving DecidableEq, Repr

/-- `cmd.OP = uint_4(cmd_word[15:12])` (R42). -/
def opField (w : CmdWord) : Nat := (w.extractLsb' 12 4).toNat

/-- `cmd.RSV = cmd_word[11:9]` (R42). -/
def rsvField (w : CmdWord) : BitVec 3 := w.extractLsb' 9 3

/-- `cmd.POL = cmd_word[8]` (R42). -/
def polField (w : CmdWord) : Bool := w.getLsbD 8

/-- `cmd.SGN = cmd_word[7]` (R42). -/
def sgnField (w : CmdWord) : Bool := w.getLsbD 7

/-- `cmd.BITS = uint_7(cmd_word[6:0])` (R42). -/
def bitsField (w : CmdWord) : Nat := (w.extractLsb' 0 7).toNat

/-- 0 = Wrap, 1 = Clamp (R16, R41). -/
def policyOfBit (b : Bool) : Policy := if b then .clamp else .wrap

/-- 0 = unsigned, 1 = signed (R41). -/
def familyOfBit (b : Bool) : Family := if b then .signed else .unsigned

/-- The bit that stands for a policy (R16). -/
def Policy.bit : Policy → Nat
  | .wrap => 0
  | .clamp => 1

/-- The bit that stands for a family (R12). -/
def Family.bit : Family → Nat
  | .unsigned => 0
  | .signed => 1

/-- A command that uses none of `POL`, `SGN`, `BITS`: all three must be zero (R45). -/
def decodePlain (w : CmdWord) (i : Instr) : Except DecodeReject Instr :=
  if polField w || sgnField w || bitsField w != 0 then .error .unusedField else .ok i

/-- Opcode 0x5: `SGN` tells URANGE from SRANGE and `POL` must be zero (R44, R45). -/
def decodeRange (w : CmdWord) : Except DecodeReject Instr :=
  if polField w then .error .unusedField
  else if sgnField w then .ok (.srange (bitsField w))
  else .ok (.urange (bitsField w))

/-- The command a word stands for, or the reason it stands for none (R44, R45). -/
def decode (w : CmdWord) : Except DecodeReject Instr :=
  if rsvField w != 0 then .error .reservedBits
  else
    match opField w with
    | 1 => .ok (.cons (policyOfBit (polField w)) (familyOfBit (sgnField w)) (bitsField w))
    | 2 => .ok (.consz (policyOfBit (polField w)) (familyOfBit (sgnField w)) (bitsField w))
    | 3 => decodePlain w .set
    | 4 => decodePlain w .get
    | 5 => decodeRange w
    | _ => .error .unassignedOp

/-- The configuration bits of a command word, `POL<<8 | SGN<<7 | bits` (R48). -/
def configBits (pol : Policy) (sgn : Family) (bits : Nat) : CmdWord :=
  BitVec.ofNat 16 pol.bit <<< 8 ||| BitVec.ofNat 16 sgn.bit <<< 7 ||| BitVec.ofNat 16 bits

/-- The word of a command (R48). -/
def encode : Instr → CmdWord
  | .cons pol sgn bits => 0x1000#16 ||| configBits pol sgn bits
  | .consz pol sgn bits => 0x2000#16 ||| configBits pol sgn bits
  | .set => 0x3000#16
  | .get => 0x4000#16
  | .urange bits => 0x5000#16 ||| BitVec.ofNat 16 bits
  | .srange bits => 0x5080#16 ||| BitVec.ofNat 16 bits

/-- A row of the opcode table: a word `w` selects it when `w AND mask = pattern` (R44). -/
structure OpcodeRow where
  mnemonic : String
  pattern : CmdWord
  mask : CmdWord
deriving DecidableEq, Repr

/-- The opcode table (R44; spec/opcode_table.json). -/
def opcodeTable : List OpcodeRow :=
  [⟨"CONS", 0x1000, 0xFE00⟩, ⟨"CONSZ", 0x2000, 0xFE00⟩, ⟨"SET", 0x3000, 0xFFFF⟩,
   ⟨"GET", 0x4000, 0xFFFF⟩, ⟨"URANGE", 0x5000, 0xFF80⟩, ⟨"SRANGE", 0x5080, 0xFF80⟩]

/-- The word selects the row (R44). -/
def OpcodeRow.selects (row : OpcodeRow) (w : CmdWord) : Bool := w &&& row.mask == row.pattern

/-- The decoder, asked by the opcode table's numbering of bits. A command is one word of 16 bits
(R41), so a longer number is no command. -/
def decodeTableWord (nbits w : Nat) : Option Instr :=
  if w % 2 ^ nbits < 2 ^ 16 then (decode (BitVec.ofNat 16 (w % 2 ^ nbits))).toOption else none

end Sys2Proof
end

