-- ==== Sys2Proof/Machine/Operands.lean ====
section
/-! DEFINITION. Reading an operand and a register as the integer it holds, and writing an integer
into a register or a response (00_scope.md section 4). -/

namespace Sys2Proof.Machine

/-- `DATA = sint_128(cmd_data)`, the one operand, used whole (R43). -/
def dataOperand (s : State) : Int := s.cmdData.toInt

/-- `enc_65(x)` (00_scope.md section 4). Log entry 9: outside -2^64 .. 2^64 - 1, where the spec leaves
it undefined and no command takes it (R87), it keeps the low 65 bits. -/
def enc65 (x : Int) : ValWord := BitVec.ofInt 65 x

/-- `LO`, `HI` and `VAL` read as integers, `sint_65`. -/
def sint65 (v : ValWord) : Int := v.toInt

/-- The configuration a construction writes: the fields of its command word (R91). -/
def cfgOf (bits : Nat) (sgn : Family) (pol : Policy) : Cfg := ⟨BitVec.ofNat 7 bits, sgn, pol⟩

/-- The 9-bit image of `CFG`, laid out as `cmd[8:0]` (R12). -/
def Cfg.word (c : Cfg) : BitVec 9 :=
  BitVec.ofNat 1 c.pol.bit ++ (BitVec.ofNat 1 c.sgn.bit ++ c.bits)

end Sys2Proof.Machine
end

