-- ==== Sys2Proof/Machine/Ops.lean ====
section
/-! DEFINITION. The shared operations: answering a command, refusing one (the block's whole "trap
entry", 60_exceptions.md R126; there is no return from it, R129), writing the registers, and what the
host's events do to the ports. -/

namespace Sys2Proof.Machine

/-- `respond(status, d0, d1)` (R46). -/
def respond (status : Status) (d0 d1 : Int) (s : State) : State :=
  { s with rsp := some ⟨status, enc65 d0, enc65 d1⟩ }

/-- `raise <Refusal>`: no register changes and the response is `(code, 0, 0)` (R126). -/
def raiseRefusal (code : Status) (s : State) : State := respond code 0 0 s

/-- Write `CFG`, `LO`, `HI` and `CONSTRUCTED`, as a construction does (R91). -/
def configure (bits : Nat) (sgn : Family) (pol : Policy) (r : Range) (s : State) : State :=
  { s with constructed := true, cfg := cfgOf bits sgn pol, lo := enc65 r.lo, hi := enc65 r.hi }

/-- Store a normalized value and return it (R76). -/
def commitValue (y : Int) (s : State) : State := respond .ok y 0 { s with val := enc65 y }

/-- Normalize with the registers of the instance (R70). -/
def normalizeHere (raw : Int) (s : State) : Int :=
  normalizeRaw raw (sint65 s.lo) (sint65 s.hi) s.cfg.sgn s.cfg.pol

/-- Construct an instance from a raw value (R91): refused with BadBits unless `BITS` is legal. -/
def construct (bits : Nat) (sgn : Family) (pol : Policy) (raw : Int) (s : State) : State :=
  if bitsLegal bits then
    let r := rangeFromBits bits sgn
    commitValue (normalizeRaw raw r.lo r.hi sgn pol) (configure bits sgn pol r s)
  else raiseRefusal .badBits s

/-- Normalize a raw value with the instance's registers, store it and return it (R93, R94): refused
with NotConstructed where no instance exists. -/
def accessValue (raw : Int) (s : State) : State :=
  if s.constructed then commitValue (normalizeHere raw s) s else raiseRefusal .notConstructed s

/-- Return a range of a bit-width, touching no register (R62, R64, R65). -/
def queryRange (bits : Nat) (sgn : Family) (s : State) : State :=
  if bitsLegal bits then
    let r := rangeFromBits bits sgn
    respond .ok r.lo r.hi s
  else raiseRefusal .badBits s

/-- The acceptance of a command: its operand is on the bus, and the host goes on to `rest` (R40). -/
def accept (data : RawBus) (rest : List HostEvent) (s : State) : State :=
  { s with cmdData := data, host := rest }

/-- A step in which the host presents nothing (`cmd_valid = 0`): no response, no register changes (R45). -/
def idle (s : State) : State := { s with rsp := none }

/-- `rst` (R141): the block as at power-up, whatever came before; the host goes on to `rest`. -/
def resetBlock (rest : List HostEvent) : State := { State.reset with host := rest }

/-- The host's next event is `e`, before those it has lined up. -/
def offer (e : HostEvent) (s : State) : State := { s with host := e :: s.host }

end Sys2Proof.Machine
end

