-- ==== Sys2Proof/Machine/RangeQuery.lean ====
section
/-! DEFINITION. The meanings of URANGE and SRANGE (40_range_derivation.md R64, R65). -/

namespace Sys2Proof.Machine

/-- URANGE: return `unsigned_range(bits)` (R64). -/
def execUrange (bits : Nat) (s : State) : Host.Outcome State Fault Refusal :=
  .next (queryRange bits .unsigned s)

/-- SRANGE: return `signed_range(bits)` (R65). -/
def execSrange (bits : Nat) (s : State) : Host.Outcome State Fault Refusal :=
  .next (queryRange bits .signed s)

end Sys2Proof.Machine
end

