-- ==== Sys2Proof/Machine/ValueAccess.lean ====
section
/-! DEFINITION. The meanings of CONS, CONSZ, SET and GET (42_value_access.md R91 to R95). -/

namespace Sys2Proof.Machine

/-- CONS: construct an instance from the operand (R91). -/
def execCons (pol : Policy) (sgn : Family) (bits : Nat) (s : State) :
    Host.Outcome State Fault Refusal :=
  .next (construct bits sgn pol (dataOperand s) s)

/-- CONSZ: CONS with the operand replaced by 0 (R92). -/
def execConsz (pol : Policy) (sgn : Family) (bits : Nat) (s : State) :
    Host.Outcome State Fault Refusal :=
  .next (construct bits sgn pol 0 s)

/-- SET: store the normalized operand (R93). -/
def execSet (s : State) : Host.Outcome State Fault Refusal :=
  .next (accessValue (dataOperand s) s)

/-- GET, and VALOF, its other name (R95): re-normalize the stored value, store the result and return
it (R94; 90_conflicts.md C3, C9). -/
def execGet (s : State) : Host.Outcome State Fault Refusal :=
  .next (accessValue (sint65 s.val) s)

end Sys2Proof.Machine
end

