-- ==== Sys2Proof/Machine/Dispatch.lean ====
section
/-! DEFINITION. One arm for each command (30_encoding.md R44). -/

namespace Sys2Proof.Machine

def exec (i : Instr) (s : State) : Host.Outcome State Fault Refusal :=
  match i with
  | .cons pol sgn bits => Sys2Proof.Machine.execCons pol sgn bits s
  | .consz pol sgn bits => Sys2Proof.Machine.execConsz pol sgn bits s
  | .set => Sys2Proof.Machine.execSet s
  | .get => Sys2Proof.Machine.execGet s
  | .urange bits => Sys2Proof.Machine.execUrange bits s
  | .srange bits => Sys2Proof.Machine.execSrange bits s

end Sys2Proof.Machine
end

