-- ==== Sys2Proof/Machine/Fetch.lean ====
section
/-! DEFINITION. What the next step is to do: the block does not fetch (10_state.md R18, 20_memory.md
R37); the command word on the port at the moment of acceptance is the command executed (R40). -/

namespace Sys2Proof.Machine

/-- What the host's next event asks of the block. -/
inductive Demand where
  /-- The host presents nothing. -/
  | nothing
  /-- The host asserts `rst`. -/
  | reset (rest : List HostEvent)
  /-- The word matches no row of the opcode table, step (1) of the decode order (R51). -/
  | illegal (data : RawBus) (rest : List HostEvent)
  /-- The word is a command. -/
  | run (i : Instr) (data : RawBus) (rest : List HostEvent)
deriving DecidableEq, Repr

/-- The host's next event, its word decoded. -/
def demand (host : List HostEvent) : Demand :=
  match host with
  | [] => .nothing
  | .reset :: rest => .reset rest
  | .command w data :: rest =>
    match decode w with
    | .ok i => .run i data rest
    | .error _ => .illegal data rest

/-- The command the opcode table's bits `w` stand for, presented with `cmd_data = 0`. A word has 16
bits (R41), so bits above them are not on the port. -/
def commandOfBits (nbits w : Nat) : HostEvent := .command (BitVec.ofNat 16 (w % 2 ^ nbits)) 0#128

end Sys2Proof.Machine
end

