-- ==== Sys2Proof/Machine/Step.lean ====
section
/-! DEFINITION. One step: one whole transaction of the command port (30_encoding.md R40, 20_memory.md
R35), one reset (R142), or one idle step. -/

namespace Sys2Proof.Machine

def step (s : State) : Host.Outcome State Fault Refusal :=
  match demand s.host with
  | .nothing => .next (idle s)
  | .reset rest => .next (resetBlock rest)
  | .illegal data rest => .next (raiseRefusal .illegalCmd (accept data rest s))
  | .run i data rest => exec i (accept data rest s)

/-- The host presents next the command with the bits `w` and `cmd_data = 0` (log entry 1). -/
def State.withFetchWord (s : State) (nbits w : Nat) : State := offer (commandOfBits nbits w) s

end Sys2Proof.Machine
end

