-- ==== Sys2Proof/Machine/Catalog.lean ====
section
/-! DEFINITION. The variant catalog, the tags and the display string (43_variant_catalog.md): host-side
functions over the block, kept by the spec "so that nothing TI says is lost" (00_scope.md R3 (e)).
Nothing in the block's own rules tests for a catalog value (R114). -/

namespace Sys2Proof.Machine

/-- A named variant: a (bits, signed-flag, policy, tag-label) tuple (R110). -/
structure Variant where
  tag : String
  bits : Nat
  sgn : Family
  pol : Policy
deriving DecidableEq, Repr

/-- The label of a configuration by the pattern of the attested tags (R111): `Uint` or `Int`, the
bit-width in decimal, and `Clamped` for the Clamp policy. -/
def tagPattern (bits : Nat) (sgn : Family) (pol : Policy) : String :=
  (match sgn with
    | .unsigned => "Uint"
    | .signed => "Int") ++
  (toString bits ++
    (match pol with
      | .wrap => ""
      | .clamp => "Clamped"))

/-- The variant of a configuration, labelled by the pattern. -/
def variantOf (sgn : Family) (pol : Policy) (bits : Nat) : Variant :=
  ⟨tagPattern bits sgn pol, bits, sgn, pol⟩

/-- The sixteen named variants, in the order of R110's table. -/
def catalog : List Variant :=
  Config.catalogWidths.map (variantOf .unsigned .wrap) ++
  Config.catalogWidths.map (variantOf .unsigned .clamp) ++
  Config.catalogWidths.map (variantOf .signed .wrap) ++
  Config.catalogWidths.map (variantOf .signed .clamp)

/-- The variant a configuration is named by, where it is named (R111: the tag is a function of `CFG`). -/
def variantOfCfg (c : Cfg) : Option Variant :=
  catalog.find? fun v => decide (cfgOf v.bits v.sgn v.pol = c)

/-- The command `NEW` stands for: CONS with an initial value, CONSZ without one (R49, R112). -/
def Variant.construction (v : Variant) (initial : Bool) : Instr :=
  if initial then .cons v.pol v.sgn v.bits else .consz v.pol v.sgn v.bits

/-- `decimal(v)`: the shortest base-ten numeral, with a leading `-` for a negative value (R113, GK1). -/
def decimal (v : Int) : String := toString v

/-- `display(tag, v) = tag ++ "(" ++ decimal(v) ++ ")"` (R113). -/
def display (tag : String) (v : Int) : String := tag ++ "(" ++ decimal v ++ ")"

/-- `to_display_string()` on the block: a GET, write-back included, whose data the host prints with the
tag of the variant it constructed (R113). No string where the configuration has no tag or the GET is
refused. -/
def displayInstance (s : State) : Host.Outcome (State × Option String) Fault Refusal :=
  match execGet s with
  | .next t =>
    .next (t,
      match t.rsp, variantOfCfg s.cfg with
      | some ⟨.ok, d, _⟩, some v => some (display v.tag (sint65 d))
      | _, _ => none)
  | .fault r => .fault r
  | .refused r => .refused r

end Sys2Proof.Machine
end

