-- ==== Sys2Proof/Machine/Assembler.lean ====
section
/-! DEFINITION. The assembler's statements, what they assemble to, and the text form of a line
(30_encoding.md R48, R49; 43_variant_catalog.md R112). Host-side: the block sees only the resulting
command. -/

namespace Sys2Proof.Machine

/-- A statement of the assembler, `NEW`, `VALOF`, `RANGE` and `.word` included (R48, R49). -/
inductive Asm where
  | cons (bits : Nat) (sgn : Family) (pol : Policy) (raw : Int)
  | consz (bits : Nat) (sgn : Family) (pol : Policy)
  | set (raw : Int)
  | get
  | urange (bits : Nat)
  | srange (bits : Nat)
  | new (variant : Variant) (initial : Option Int)
  | valof
  | range (bits : Nat) (sgn : Family)
  | word (w : Nat)
deriving DecidableEq, Repr

/-- The operand range of the assembler, -2^127 .. 2^127 - 1 (R48). -/
def rawFits (raw : Int) : Bool := decide (-2 ^ 127 ≤ raw) && decide (raw < 2 ^ 127)

/-- The command an instruction and its operand assemble to; `cmd_data = enc_128(raw)` (R48). -/
def assembleCommand (i : Instr) (raw : Int) : Option HostEvent :=
  if i.wellFormed && rawFits raw then some (.command (encode i) (BitVec.ofInt 128 raw)) else none

/-- The command of a statement, pseudo-instructions expanded (R49); where the operand is ignored the
assembler emits 0 (R48). -/
def assemble : Asm → Option HostEvent
  | .cons bits sgn pol raw => assembleCommand (.cons pol sgn bits) raw
  | .consz bits sgn pol => assembleCommand (.consz pol sgn bits) 0
  | .set raw => assembleCommand .set raw
  | .get => assembleCommand .get 0
  | .urange bits => assembleCommand (.urange bits) 0
  | .srange bits => assembleCommand (.srange bits) 0
  | .new v (some raw) => assembleCommand (v.construction true) raw
  | .new v none => assembleCommand (v.construction false) 0
  | .valof => assembleCommand .get 0
  | .range bits .unsigned => assembleCommand (.urange bits) 0
  | .range bits .signed => assembleCommand (.srange bits) 0
  | .word w => if w < 2 ^ 16 then some (.command (BitVec.ofNat 16 w) 0) else none

/-- A character between the words of a line. -/
def isBlank (c : Char) : Bool := c == ' ' || c == '\t' || c == '\r'

/-- The characters without the blanks at both ends. -/
def trimBlanks (cs : List Char) : List Char :=
  ((cs.dropWhile isBlank).reverse.dropWhile isBlank).reverse

/-- The parts between commas. -/
def splitAtCommas : List Char → List (List Char)
  | [] => [[]]
  | c :: cs =>
    match splitAtCommas cs with
    | [] => [[c]]
    | part :: parts => if c == ',' then [] :: part :: parts else (c :: part) :: parts

/-- The value of a digit, letters in lower case. -/
def digitValue (base : Nat) (c : Char) : Option Nat :=
  let d := if c.isDigit then c.toNat - '0'.toNat
    else if decide ('a' ≤ c) && decide (c ≤ 'f') then c.toNat - 'a'.toNat + 10
    else base
  if d < base then some d else none

/-- A numeral without a sign; at least one digit. -/
def parseNumeral (base : Nat) (cs : List Char) : Option Nat :=
  if cs.isEmpty then none
  else cs.foldlM (fun acc c => (digitValue base c).map (acc * base + ·)) 0

/-- `2^n`, for an `n` that the operand range can meet. -/
def parsePower : List Char → Option Int
  | '2' :: '^' :: ds =>
    match parseNumeral 10 ds with
    | some n => if n ≤ 127 then some (2 ^ n) else none
    | none => none
  | _ => none

/-- `2^n` or `2^n - 1` (R48). -/
def parsePowerExpr (cs : List Char) : Option Int :=
  match cs.dropWhile (· != '-') with
  | '-' :: rest =>
    if trimBlanks rest == ['1'] then
      (parsePower (trimBlanks (cs.takeWhile (· != '-')))).map (· - 1)
    else none
  | _ => parsePower cs

/-- `<raw>`: a decimal integer with an optional leading `-`, a `0x` hexadecimal, `2^n`, `2^n - 1` or
`-2^n` (R48). -/
def parseRaw : List Char → Option Int
  | '-' :: '2' :: '^' :: ds => (parsePower ('2' :: '^' :: ds)).map (-·)
  | '-' :: ds => (parseNumeral 10 ds).map fun n => -(n : Int)
  | '0' :: 'x' :: ds => (parseNumeral 16 ds).map fun n => (n : Int)
  | '2' :: '^' :: ds => parsePowerExpr ('2' :: '^' :: ds)
  | ds => (parseNumeral 10 ds).map fun n => (n : Int)

/-- `#<raw>`. -/
def parseOperand : List Char → Option Int
  | '#' :: cs => parseRaw cs
  | _ => none

/-- `U` or `S` (R48). -/
def parseFamily : List Char → Option Family
  | ['u'] => some .unsigned
  | ['s'] => some .signed
  | _ => none

/-- `W` or `C` (R48). -/
def parsePolicy : List Char → Option Policy
  | ['w'] => some .wrap
  | ['c'] => some .clamp
  | _ => none

/-- `<Tag>`, letters in either case (R48, R112). -/
def parseTag (cs : List Char) : Option Variant :=
  catalog.find? fun v => v.tag.toList.map Char.toLower == cs

/-- `0x<hhhh>`: four hexadecimal digits (R48). -/
def parseWord : List Char → Option Nat
  | ['0', 'x', a, b, c, d] => parseNumeral 16 [a, b, c, d]
  | _ => none

/-- A statement from its mnemonic and its arguments, all in lower case (R48, R49). -/
def parseStatement (mnemonic : String) (args : List (List Char)) : Option Asm :=
  match mnemonic, args with
  | "cons", [b, s, p, r] => do
    return .cons (← parseNumeral 10 b) (← parseFamily s) (← parsePolicy p) (← parseOperand r)
  | "consz", [b, s, p] => do
    return .consz (← parseNumeral 10 b) (← parseFamily s) (← parsePolicy p)
  | "set", [r] => (parseOperand r).map .set
  | "get", [] => some .get
  | "urange", [b] => (parseNumeral 10 b).map .urange
  | "srange", [b] => (parseNumeral 10 b).map .srange
  | "new", [t] => (parseTag t).map fun v => .new v none
  | "new", [t, r] => do return .new (← parseTag t) (some (← parseOperand r))
  | "valof", [] => some .valof
  | "range", [b, s] => do return .range (← parseNumeral 10 b) (← parseFamily s)
  | ".word", [w] => (parseWord w).map .word
  | _, _ => none

/-- The line without its comment (`;` starts one), in lower case, trimmed (R48). -/
def cleanLine (line : List Char) : List Char :=
  trimBlanks ((line.takeWhile (· != ';')).map Char.toLower)

/-- The statement of a line that is not empty: a mnemonic, then arguments between commas (R48). -/
def parseLine (line : List Char) : Option Asm :=
  let text := cleanLine line
  let rest := trimBlanks (text.dropWhile (!isBlank ·))
  parseStatement (String.ofList (text.takeWhile (!isBlank ·)))
    (if rest.isEmpty then [] else (splitAtCommas rest).map trimBlanks)

/-- The commands of a program text, one line after the other; `none` where a line is not in the syntax
or a number is out of its range. -/
def assembleLines : List String → Option (List HostEvent)
  | [] => some []
  | line :: lines =>
    if (cleanLine line.toList).isEmpty then assembleLines lines
    else
      match (parseLine line.toList).bind assemble, assembleLines lines with
      | some e, some es => some (e :: es)
      | _, _ => none

end Sys2Proof.Machine
end

