-- ==== Sys2Proof/Machine/Port.lean ====
section
/-! DEFINITION. The two ports cycle by cycle (30_encoding.md R40, 70_reset_and_hazards.md R140 to R142,
R147): the handshake around the transaction that `step` does at once. The spec asks no model for it
("a model needs none of the signals"); `step` does not use this file. Cycle `n` is the one that ends
at the n-th rising edge of `clk`; `outputs` is what the block drives in a cycle and `edge` is what the
rising edge at its end does. Log entry 10. -/

namespace Sys2Proof.Machine

/-- What the host drives in one cycle (R40). -/
structure PinsIn where
  rst : Bool
  cmdValid : Bool
  cmdWord : CmdWord
  cmdData : RawBus
deriving DecidableEq, Repr

/-- What the block drives in one cycle (R40). -/
structure PinsOut where
  cmdReady : Bool
  rspValid : Bool
  rspStatus : BitVec 2
  rspData0 : ValWord
  rspData1 : ValWord
deriving DecidableEq, Repr

/-- An accepted command that is not yet answered. -/
structure Flight where
  /-- Cycles to go, the response cycle included: 1 in the response cycle. -/
  left : Nat
  /-- What the response will be. -/
  rsp : Response
deriving DecidableEq, Repr

/-- The block with its handshake. -/
structure Block where
  /-- The registers of R10. -/
  arch : State
  /-- The command in flight; at most one (R40). -/
  flight : Option Flight
  /-- MODEL's own: how many commands were accepted; picks the open latency (log entry 5). -/
  accepted : Nat
  /-- MODEL's own: the number of the cycle; picks the unspecified outputs (log entry 6). -/
  cycle : Nat
deriving DecidableEq, Repr

/-- The block after reset. -/
def Block.reset : Block := ⟨State.reset, none, 0, 0⟩

/-- The response present in this cycle: the last cycle of a flight, unless `rst` is high (R40, R141). -/
def rspNow (b : Block) (rst : Bool) : Option Response :=
  match b.flight with
  | some f => if !rst && f.left == 1 then some f.rsp else none
  | none => none

/-- `cmd_ready`: 0 from the cycle after an acceptance up to and including the response cycle and while
`rst = 1`, else 1 (R40, R141). -/
def cmdReadyNow (b : Block) (rst : Bool) : Bool := !rst && b.flight.isNone

/-- The outputs in a cycle; status and data are unspecified where `rsp_valid = 0` (R40, U7). -/
def outputs (b : Block) (p : PinsIn) : PinsOut :=
  match rspNow b p.rst with
  | some r => ⟨cmdReadyNow b p.rst, true, r.status.code, r.data0, r.data1⟩
  | none =>
    ⟨cmdReadyNow b p.rst, false, Config.freeStatus b.cycle, Config.freeData0 b.cycle,
      Config.freeData1 b.cycle⟩

/-- The flight one cycle later. -/
def Flight.advance (f : Flight) : Option Flight :=
  if f.left ≤ 1 then none else some { f with left := f.left - 1 }

/-- The registers and the response of one accepted command: one step of the machine. -/
def transact (word : CmdWord) (data : RawBus) (s : State) : Host.Outcome State Fault Refusal :=
  step (offer (.command word data) s)

/-- The flight of a command that was just performed, `LAT` cycles from its response (R40). -/
def takeOff (n : Nat) (t : State) : Option Flight :=
  match t.rsp with
  | some r => some ⟨Config.lat n, r⟩
  | none => none

/-- A rising edge of `clk`. `rst` resets the block and drops a command in flight (R140, R142); a command
is accepted where `rst = 0`, `cmd_valid = 1` and `cmd_ready = 1` (R40). Log entry 7: presenting a
command while `cmd_ready = 0` breaks the host's duty (R147) and stops the model. -/
def edge (b : Block) (p : PinsIn) : Host.Outcome Block Fault Refusal :=
  if p.rst then .next ⟨resetBlock b.arch.host, none, b.accepted, b.cycle + 1⟩
  else
    match b.flight with
    | some f =>
      if p.cmdValid then .fault .commandWhileBusy
      else .next { b with flight := f.advance, cycle := b.cycle + 1 }
    | none =>
      if p.cmdValid then
        match transact p.cmdWord p.cmdData b.arch with
        | .next t => .next ⟨t, takeOff b.accepted t, b.accepted + 1, b.cycle + 1⟩
        | .fault r => .fault r
        | .refused r => .refused r
      else .next { b with cycle := b.cycle + 1 }

/-- `n` cycles in which the host presents nothing (`rst = 0`, `cmd_valid = 0`). -/
def quiet (p : PinsIn) : PinsIn := { p with rst := false, cmdValid := false }

/-- The block after `n` edges with the pins `p` held quiet. -/
def waitQuiet (p : PinsIn) : Nat → Block → Host.Outcome Block Fault Refusal
  | 0, b => .next b
  | n + 1, b =>
    match edge b (quiet p) with
    | .next b' => waitQuiet p n b'
    | .fault r => .fault r
    | .refused r => .refused r

end Sys2Proof.Machine
end

