-- ==== Sys2Proof/Safety.lean ====
section
/-! DEFINITION. The terms claims are stated in: the closed forms of the rules, the invariant of a live
instance, what of a state a host can observe, and the record of a run. Nothing here is used by the
machine. -/

namespace Sys2Proof.Machine

/-- `lo` of the range of a bit-width, closed form (R66). -/
def lowerBound (bits : Nat) : Family → Int
  | .unsigned => 0
  | .signed => -(2 ^ (bits - 1) - 1)

/-- `hi` of the range of a bit-width, closed form (R66). -/
def upperBound (bits : Nat) : Family → Int
  | .unsigned => 2 ^ bits - 1
  | .signed => 2 ^ (bits - 1)

/-- What normalize gives, one expression for both families (R82). `%` is the non-negative remainder. -/
def boundedImage (raw lo hi : Int) : Policy → Int
  | .clamp => lo + max 0 (min (hi - lo) raw)
  | .wrap => lo + (raw - lo) % (hi - lo)

/-- `boundedImage` in the range a bit-width and a family give. -/
def boundedIn (raw : Int) (bits : Nat) (sgn : Family) (pol : Policy) : Int :=
  boundedImage raw (lowerBound bits sgn) (upperBound bits sgn) pol

/-- `VAL` is in the instance's range (R21): `LO <= VAL <= HI`, and below `HI` under Wrap. -/
abbrev State.ValueInRange (s : State) : Prop :=
  s.lo.toInt ≤ s.val.toInt ∧ s.val.toInt ≤ s.hi.toInt ∧
    (s.cfg.pol = .wrap → s.val.toInt < s.hi.toInt)

/-- The invariant of the registers: where an instance exists, its bit-width is legal (R12), `LO` and
`HI` are the range of `CFG` (R13) and `VAL` is in it (R21). -/
abbrev State.Consistent (s : State) : Prop :=
  s.constructed = true →
    (1 ≤ s.cfg.bits.toNat ∧ s.cfg.bits.toNat ≤ 64) ∧
    (s.lo.toInt = lowerBound s.cfg.bits.toNat s.cfg.sgn ∧
      s.hi.toInt = upperBound s.cfg.bits.toNat s.cfg.sgn) ∧
    s.ValueInRange

/-- An instance whose reads change it (R144): signed, Clamp, of at least two bits. -/
abbrev State.SignedClamp (s : State) : Prop :=
  s.cfg.sgn = .signed ∧ s.cfg.pol = .clamp ∧ 2 ≤ s.cfg.bits.toNat

/-- Two blocks that no host can tell apart (R22): the same `CONSTRUCTED`, the same events to come, and
the same registers where an instance exists. -/
abbrev State.LooksLike (s t : State) : Prop :=
  s.constructed = t.constructed ∧ s.host = t.host ∧
    (s.constructed = true → s.cfg = t.cfg ∧ s.lo = t.lo ∧ s.hi = t.hi ∧ s.val = t.val)

/-- The registers of R10 are the same in both states. -/
abbrev State.SameRegisters (s t : State) : Prop :=
  s.constructed = t.constructed ∧ s.cfg = t.cfg ∧ s.lo = t.lo ∧ s.hi = t.hi ∧ s.val = t.val

/-- The state after a step, where the step answers one. -/
def after (s : State) : State :=
  match step s with
  | .next t => t
  | _ => s

/-- The responses of the next `n` steps, in order. -/
def responses : Nat → State → List Response
  | 0, _ => []
  | n + 1, s => (after s).rsp.toList ++ responses n (after s)

/-- The event is a command. -/
def HostEvent.isCommand : HostEvent → Bool
  | .reset => false
  | .command _ _ => true

/-- The effect of one event on a block that has nothing else lined up. -/
def serve (e : HostEvent) (s : State) : State := after { s with host := [e] }

/-- The effect of a list of events, one after the other: the state and the responses (R35). -/
def serveAll : List HostEvent → State → State × List Response
  | [], s => (s, [])
  | e :: es, s =>
    ((serveAll es (serve e s)).1, (serve e s).rsp.toList ++ (serveAll es (serve e s)).2)

/-- The status the decode order of R51 gives a word, read off the opcode table. -/
def statusByTable (w : CmdWord) (constructed : Bool) : Status :=
  match opcodeTable.find? (fun row => row.selects w) with
  | none => .illegalCmd
  | some row =>
    if row.mnemonic = "SET" ∨ row.mnemonic = "GET" then
      if constructed then .ok else .notConstructed
    else if 1 ≤ bitsField w ∧ bitsField w ≤ 64 then .ok
    else .badBits

/-- The word is a construction the block performs: CONS or CONSZ with `BITS` in 1 .. 64. -/
def constructs (w : CmdWord) : Bool :=
  match decode w with
  | .ok (.cons _ _ bits) => decide (1 ≤ bits ∧ bits ≤ 64)
  | .ok (.consz _ _ bits) => decide (1 ≤ bits ∧ bits ≤ 64)
  | _ => false

/-- How many of the 65536 command words decode to a command of this mnemonic (R45). -/
def wordCount (mnemonic : String) : Nat :=
  (List.range (2 ^ 16)).countP fun n =>
    match decode (BitVec.ofNat 16 n) with
    | .ok i => i.mnemonic == mnemonic
    | .error _ => false

/-- How many of the 65536 command words decode to no command (R45). -/
def illegalWordCount : Nat :=
  (List.range (2 ^ 16)).countP fun n =>
    match decode (BitVec.ofNat 16 n) with
    | .ok _ => false
    | .error _ => true

/-- `n` GET commands, `cmd_data` held at `d`. -/
def gets (n : Nat) (d : RawBus) : List HostEvent := List.replicate n (.command 0x4000#16 d)

end Sys2Proof.Machine
end

