-- ==== Sys2Proof/Certificates/Slice0/Obligations.lean ====
section
/-! DEFINITION. What is claimed of the model, stated and not proved here; OBLIGATIONS.json says each in
words. -/

open Sys2Proof Sys2Proof.Machine

/-- Decoding the word of a well-formed command gives the command back (30_encoding.md section 2). -/
def Obligations.DecodeOfEncodeReturnsTheCommand : Prop :=
  ∀ i : Instr, i.wellFormed = true → decode (encode i) = .ok i

/-- A word that decodes is the word of the command it decodes to. -/
def Obligations.EncodeOfDecodeReturnsTheWord : Prop :=
  ∀ (w : CmdWord) (i : Instr), decode w = .ok i → i.wellFormed = true ∧ encode i = w

/-- A word decodes to a command of a row exactly when it selects the row, and it selects at most one. -/
def Obligations.DecodeSelectsTheTableRow : Prop :=
  ∀ (w : CmdWord) (row : OpcodeRow), row ∈ opcodeTable →
    ((∃ i, decode w = .ok i ∧ i.mnemonic = row.mnemonic) ↔ w &&& row.mask = row.pattern) ∧
    ∀ other ∈ opcodeTable, row.selects w = true → other.selects w = true → other = row

/-- The counts of R45. -/
def Obligations.LegalWordCounts : Prop :=
  wordCount "CONS" = 512 ∧ wordCount "CONSZ" = 512 ∧ wordCount "SET" = 1 ∧ wordCount "GET" = 1 ∧
    wordCount "URANGE" = 128 ∧ wordCount "SRANGE" = 128 ∧ illegalWordCount = 64254

/-- The worked encodings of R50, as words. -/
def Obligations.WorkedWordsDecode : Prop :=
  decode 0x1008 = .ok (.cons .wrap .unsigned 8) ∧ decode 0x1108 = .ok (.cons .clamp .unsigned 8) ∧
  decode 0x2088 = .ok (.consz .wrap .signed 8) ∧ decode 0x1188 = .ok (.cons .clamp .signed 8) ∧
  decode 0x11A0 = .ok (.cons .clamp .signed 32) ∧ decode 0x1040 = .ok (.cons .wrap .unsigned 64) ∧
  decode 0x3000 = .ok .set ∧ decode 0x4000 = .ok .get ∧ decode 0x5008 = .ok (.urange 8) ∧
  decode 0x5088 = .ok (.srange 8) ∧ decode 0x50C0 = .ok (.srange 64) ∧
  decode 0x1041 = .ok (.cons .wrap .unsigned 65) ∧
  (decode 0x0000).toOption = none ∧ (decode 0x3001).toOption = none ∧
  (decode 0x5100).toOption = none ∧ (decode 0x1208).toOption = none

/-- A step runs the command the presented word decodes to, its operand on the bus. -/
def Obligations.StepRunsTheDecodedCommand : Prop :=
  ∀ (s : State) (w : CmdWord) (d : RawBus) (rest : List HostEvent) (i : Instr),
    s.host = .command w d :: rest → decode w = .ok i →
    step s = exec i { s with cmdData := d, host := rest }

/-- Every step answers a next state; it uses up one host event and answers exactly the commands. The
host's events and the response field are the model's own (log entries 1, 2); that a step without an
event answers nothing is log entry 11. -/
def Obligations.EveryStepAnswers : Prop :=
  ∀ s : State, ∃ t, step s = .next t ∧ t.host = s.host.tail ∧
    (t.rsp.isSome = true ↔ ∃ w d rest, s.host = .command w d :: rest)

/-- R122: which words are illegal, what the block answers to one, and that it answers so to no other. -/
def Obligations.IllegalWordIsRefused : Prop :=
  ∀ (s : State) (w : CmdWord) (d : RawBus) (rest : List HostEvent), s.host = .command w d :: rest →
    ((∀ row ∈ opcodeTable, row.selects w = false) ↔
      (opField w = 0 ∨ 6 ≤ opField w) ∨ rsvField w ≠ 0 ∨
      ((opField w = 3 ∨ opField w = 4) ∧
        (polField w = true ∨ sgnField w = true ∨ bitsField w ≠ 0)) ∨
      (opField w = 5 ∧ polField w = true)) ∧
    ((∀ row ∈ opcodeTable, row.selects w = false) →
      step s = .next { s with cmdData := d, host := rest, rsp := some ⟨.illegalCmd, 0#65, 0#65⟩ }) ∧
    (∀ t r, step s = .next t → t.rsp = some r → r.status = .illegalCmd →
      ∀ row ∈ opcodeTable, row.selects w = false)

/-- R123: CONS, CONSZ, URANGE and SRANGE are refused with BadBits exactly on a bad `BITS`, whatever the
policy, and SET and GET never are. -/
def Obligations.BadBitsIsRefused : Prop :=
  (∀ (p : Policy) (g : Family) (b : Nat) (s : State),
    ∀ i ∈ [Instr.cons p g b, .consz p g b, .urange b, .srange b],
      ((b = 0 ∨ 65 ≤ b) → exec i s = .next { s with rsp := some ⟨.badBits, 0#65, 0#65⟩ }) ∧
      (1 ≤ b → b ≤ 64 → ∃ t r, exec i s = .next t ∧ t.rsp = some r ∧ r.status = .ok)) ∧
  (∀ s : State, ∀ i ∈ [Instr.set, .get],
    ∃ t r, exec i s = .next t ∧ t.rsp = some r ∧ r.status ≠ .badBits)

/-- R124: SET and GET are refused with NotConstructed exactly while no instance exists, and no other
command ever is. -/
def Obligations.NotConstructedIsRefused : Prop :=
  (∀ s : State, s.constructed = false → ∀ i ∈ [Instr.set, .get],
    exec i s = .next { s with rsp := some ⟨.notConstructed, 0#65, 0#65⟩ }) ∧
  (∀ (i : Instr) (s t : State) (r : Response), exec i s = .next t → t.rsp = some r →
    r.status = .notConstructed → s.constructed = false ∧ (i = .set ∨ i = .get))

/-- R51: the status of a response is the first check that applies, in the order IllegalCmd, BadBits,
NotConstructed; a command whose status is Ok is performed. -/
def Obligations.StatusFollowsTheDecodeOrder : Prop :=
  ∀ (s : State) (w : CmdWord) (d : RawBus) (rest : List HostEvent), s.host = .command w d :: rest →
    ∃ t r, step s = .next t ∧ t.rsp = some r ∧ r.status = statusByTable w s.constructed ∧
      (statusByTable w s.constructed = .ok →
        ∃ i, decode w = .ok i ∧ exec i { s with cmdData := d, host := rest } = .next t)

/-- R126: a refused command writes no register, its response carries no data, and no later step can
tell that it was presented. -/
def Obligations.RefusedCommandChangesNothing : Prop :=
  ∀ (s t : State) (w : CmdWord) (d : RawBus) (rest : List HostEvent) (r : Response),
    s.host = .command w d :: rest → step s = .next t → t.rsp = some r → r.status ≠ .ok →
    t = { s with cmdData := d, host := rest, rsp := some ⟨r.status, 0#65, 0#65⟩ } ∧
    ∀ (e : HostEvent) (es : List HostEvent),
      step { t with host := e :: es } = step { s with host := e :: es }

/-- R46: every accepted command gets one response, with these data. -/
def Obligations.ResponseCarriesTheResult : Prop :=
  ∀ (s : State) (w : CmdWord) (d : RawBus) (rest : List HostEvent), s.host = .command w d :: rest →
    ∃ t r, step s = .next t ∧ t.rsp = some r ∧
      (r.status ≠ .ok → r.data0 = 0#65 ∧ r.data1 = 0#65) ∧
      (r.status = .ok → ∃ i, decode w = .ok i ∧
        (∀ b, i = .urange b → r.data0.toInt = 0 ∧ r.data1.toInt = 2 ^ b - 1) ∧
        (∀ b, i = .srange b → r.data0.toInt = -(2 ^ (b - 1) - 1) ∧ r.data1.toInt = 2 ^ (b - 1)) ∧
        ((∀ b, i ≠ .urange b ∧ i ≠ .srange b) → r.data0 = t.val ∧ r.data1 = 0#65))

/-- R91: CONS writes all five registers, and nothing else but the response; it is refused with BadBits
on a bad `BITS` and with IllegalCmd on a non-zero `RSV`. -/
def Obligations.ConsConstructsAnInstance : Prop :=
  (∀ (p : Policy) (g : Family) (b : Nat) (s : State), 1 ≤ b → b ≤ 64 →
    ∃ lo hi y : ValWord, lo.toInt = lowerBound b g ∧ hi.toInt = upperBound b g ∧
      y.toInt = boundedIn s.cmdData.toInt b g p ∧
      exec (.cons p g b) s = .next
        { s with
          constructed := true, cfg := ⟨BitVec.ofNat 7 b, g, p⟩, lo := lo, hi := hi, val := y,
          rsp := some ⟨.ok, y, 0#65⟩ }) ∧
  (∀ (p : Policy) (g : Family) (b : Nat) (s : State), (b = 0 ∨ 65 ≤ b) →
    exec (.cons p g b) s = .next { s with rsp := some ⟨.badBits, 0#65, 0#65⟩ }) ∧
  (∀ (p : Policy) (g : Family) (b : Nat), b ≤ 127 →
    (encode (.cons p g b)).toNat = 0x1000 + p.bit * 256 + g.bit * 128 + b) ∧
  (∀ w : CmdWord, opField w = 1 → ((decode w).toOption = none ↔ rsvField w ≠ 0))

/-- R92: CONSZ does what CONS does with the operand 0; the stored value is 0, or `lo` for signed
Clamp. -/
def Obligations.ConszConstructsFromZero : Prop :=
  (∀ (p : Policy) (g : Family) (b : Nat) (s : State), 1 ≤ b → b ≤ 64 →
    ∃ lo hi y : ValWord, lo.toInt = lowerBound b g ∧ hi.toInt = upperBound b g ∧
      y.toInt = (if g = .signed ∧ p = .clamp then lowerBound b g else 0) ∧
      exec (.consz p g b) s = .next
        { s with
          constructed := true, cfg := ⟨BitVec.ofNat 7 b, g, p⟩, lo := lo, hi := hi, val := y,
          rsp := some ⟨.ok, y, 0#65⟩ }) ∧
  (∀ (p : Policy) (g : Family) (b : Nat) (s : State),
    ∃ t, exec (.cons p g b) { s with cmdData := 0 } = .next t ∧
      exec (.consz p g b) s = .next { t with cmdData := s.cmdData }) ∧
  (∀ (p : Policy) (g : Family) (b : Nat), b ≤ 127 →
    (encode (.consz p g b)).toNat = 0x2000 + p.bit * 256 + g.bit * 128 + b) ∧
  (∀ w : CmdWord, opField w = 2 → ((decode w).toOption = none ↔ rsvField w ≠ 0))

/-- R93: SET stores the bounded image of the operand in `VAL` and writes nothing else but the response;
the old `VAL` is no input. -/
def Obligations.SetStoresTheBoundedOperand : Prop :=
  (∀ s : State, s.Consistent → s.constructed = true →
    ∃ y : ValWord, y.toInt = boundedIn s.cmdData.toInt s.cfg.bits.toNat s.cfg.sgn s.cfg.pol ∧
      exec .set s = .next { s with val := y, rsp := some ⟨.ok, y, 0#65⟩ }) ∧
  (∀ s : State, s.constructed = false →
    exec .set s = .next { s with rsp := some ⟨.notConstructed, 0#65, 0#65⟩ }) ∧
  (∀ (s : State) (v : ValWord), s.constructed = true → exec .set { s with val := v } = exec .set s) ∧
  encode .set = 0x3000 ∧
  (∀ w : CmdWord, opField w = 3 → ((decode w).toOption = none ↔ w ≠ 0x3000))

/-- R94: GET replaces `VAL` by its bounded image, returns it, and writes nothing else. -/
def Obligations.GetRenormalizesTheValue : Prop :=
  (∀ s : State, s.Consistent → s.constructed = true →
    ∃ y : ValWord, y.toInt = boundedIn s.val.toInt s.cfg.bits.toNat s.cfg.sgn s.cfg.pol ∧
      exec .get s = .next { s with val := y, rsp := some ⟨.ok, y, 0#65⟩ }) ∧
  (∀ s : State, s.constructed = false →
    exec .get s = .next { s with rsp := some ⟨.notConstructed, 0#65, 0#65⟩ }) ∧
  encode .get = 0x4000 ∧
  (∀ w : CmdWord, opField w = 4 → ((decode w).toOption = none ↔ w ≠ 0x4000))

/-- R64: URANGE answers `(0, 2^bits - 1)` in every state and changes no register. -/
def Obligations.UrangeAnswersTheUnsignedRange : Prop :=
  (∀ (b : Nat) (s : State), 1 ≤ b → b ≤ 64 →
    ∃ lo hi : ValWord, lo.toInt = 0 ∧ hi.toInt = 2 ^ b - 1 ∧
      exec (.urange b) s = .next { s with rsp := some ⟨.ok, lo, hi⟩ }) ∧
  (∀ (b : Nat) (s : State), (b = 0 ∨ 65 ≤ b) →
    exec (.urange b) s = .next { s with rsp := some ⟨.badBits, 0#65, 0#65⟩ }) ∧
  (∀ b : Nat, b ≤ 127 → (encode (.urange b)).toNat = 0x5000 + b) ∧
  (∀ w : CmdWord, opField w = 5 → sgnField w = false →
    ((decode w).toOption = none ↔ rsvField w ≠ 0 ∨ polField w = true))

/-- R65: SRANGE answers `(-(2^(bits-1) - 1), 2^(bits-1))` in every state and changes no register. -/
def Obligations.SrangeAnswersTheSignedRange : Prop :=
  (∀ (b : Nat) (s : State), 1 ≤ b → b ≤ 64 →
    ∃ lo hi : ValWord, lo.toInt = -(2 ^ (b - 1) - 1) ∧ hi.toInt = 2 ^ (b - 1) ∧
      exec (.srange b) s = .next { s with rsp := some ⟨.ok, lo, hi⟩ }) ∧
  (∀ (b : Nat) (s : State), (b = 0 ∨ 65 ≤ b) →
    exec (.srange b) s = .next { s with rsp := some ⟨.badBits, 0#65, 0#65⟩ }) ∧
  (∀ b : Nat, b ≤ 127 → (encode (.srange b)).toNat = 0x5080 + b) ∧
  (∀ w : CmdWord, opField w = 5 → sgnField w = true →
    ((decode w).toOption = none ↔ rsvField w ≠ 0 ∨ polField w = true))

/-- R66: the closed forms of the ranges, their width, their extremes, and the table of widths; a range
has `2^bits` members, and the signed one is the two's-complement range shifted up by one. -/
def Obligations.RangeClosedForms : Prop :=
  (∀ b : Nat, 1 ≤ b → b ≤ 64 →
    unsignedRange b = ⟨0, 2 ^ b - 1⟩ ∧ signedRange b = ⟨-(2 ^ (b - 1) - 1), 2 ^ (b - 1)⟩ ∧
    signedRange b = ⟨-2 ^ (b - 1) + 1, 2 ^ (b - 1) - 1 + 1⟩ ∧
    ∀ g : Family,
      (rangeFromBits b g).hi - (rangeFromBits b g).lo = 2 ^ b - 1 ∧
      (Finset.Icc (rangeFromBits b g).lo (rangeFromBits b g).hi).card = 2 ^ b ∧
      1 ≤ (rangeFromBits b g).hi - (rangeFromBits b g).lo ∧
      ((rangeFromBits b g).hi - (rangeFromBits b g).lo) % 2 = 1 ∧
      -(2 ^ 63 - 1) ≤ (rangeFromBits b g).lo ∧ (rangeFromBits b g).hi ≤ 2 ^ 64 - 1 ∧
      (enc65 (rangeFromBits b g).lo).toInt = (rangeFromBits b g).lo ∧
      (enc65 (rangeFromBits b g).hi).toInt = (rangeFromBits b g).hi) ∧
  [1, 2, 8, 16, 32, 64].map (fun b => (unsignedRange b, signedRange b)) =
    [(⟨0, 1⟩, ⟨0, 1⟩), (⟨0, 3⟩, ⟨-1, 2⟩), (⟨0, 255⟩, ⟨-127, 128⟩), (⟨0, 65535⟩, ⟨-32767, 32768⟩),
     (⟨0, 4294967295⟩, ⟨-2147483647, 2147483648⟩),
     (⟨0, 18446744073709551615⟩, ⟨-9223372036854775807, 9223372036854775808⟩)]

/-- R71 and R72: both Clamp forms by cases on the raw value; the signed one is not the usual clamp, and
`lo` maps to `lo` exactly when `lo <= 0`. -/
def Obligations.ClampFormsByCases : Prop :=
  (∀ raw hi : Int, 0 ≤ hi →
    clampUnsigned raw hi = if raw < 0 then 0 else if raw ≤ hi then raw else hi) ∧
  (∀ raw lo hi : Int, lo < hi →
    clampSigned raw lo hi = (if raw ≤ 0 then lo else if raw < hi - lo then lo + raw else hi) ∧
    (lo < 0 → (clampSigned raw lo hi = max lo (min hi raw) ↔ raw ≤ lo ∨ hi - lo ≤ raw)) ∧
    (clampSigned lo lo hi = lo ↔ lo ≤ 0))

/-- R75: every remainder that is congruent to `a` and smaller than `n` in magnitude gives, after the
correction, the non-negative remainder; so both Wrap forms are that remainder. -/
def Obligations.RemainderConventionDoesNotMatter : Prop :=
  (∀ rem : Int → Int → Int, (∀ a n, 1 ≤ n → n ∣ rem a n - a ∧ |rem a n| < n) →
    ∀ a n, 1 ≤ n → correctRemainder (rem a n) n = emod a n) ∧
  (∀ a n : Int, 1 ≤ n → (n ∣ tmod a n - a ∧ |tmod a n| < n) ∧
    (0 ≤ emod a n ∧ emod a n < n ∧ n ∣ emod a n - a) ∧ emod a n = a % n) ∧
  (∀ raw hi : Int, 1 ≤ hi → wrapUnsigned raw hi = emod raw hi) ∧
  (∀ raw lo hi : Int, 1 ≤ hi - lo → wrapSigned raw lo hi = lo + emod (raw - lo) (hi - lo)) ∧
  (∀ (raw : Int) (g : Family), normalizeRaw raw (rangeFromBits 1 g).lo (rangeFromBits 1 g).hi g .wrap = 0)

/-- R82: with `lo = 0` the signed forms are the unsigned ones, so one expression gives normalize for
both families; at one bit the families agree. -/
def Obligations.FamilyBitIsRedundant : Prop :=
  (∀ raw hi : Int, clampSigned raw 0 hi = clampUnsigned raw hi) ∧
  (∀ raw hi : Int, 1 ≤ hi → wrapSigned raw 0 hi = wrapUnsigned raw hi) ∧
  (∀ (raw : Int) (b : Nat) (g : Family) (p : Policy), 1 ≤ b → b ≤ 64 →
    normalizeRaw raw (rangeFromBits b g).lo (rangeFromBits b g).hi g p = boundedIn raw b g p) ∧
  (∀ (raw : Int) (p : Policy),
    normalizeRaw raw (rangeFromBits 1 .signed).lo (rangeFromBits 1 .signed).hi .signed p =
      normalizeRaw raw (rangeFromBits 1 .unsigned).lo (rangeFromBits 1 .unsigned).hi .unsigned p)

/-- R83: normalize stays in the range, and below `hi` under Wrap. -/
def Obligations.NormalizeStaysInRange : Prop :=
  ∀ (raw : Int) (b : Nat) (g : Family) (p : Policy), 1 ≤ b → b ≤ 64 →
    let r := rangeFromBits b g
    let y := normalizeRaw raw r.lo r.hi g p
    r.lo ≤ y ∧ y ≤ r.hi ∧ (p = .wrap → y ≤ r.hi - 1)

/-- R84: the laws of Wrap. -/
def Obligations.WrapLaws : Prop :=
  ∀ (b : Nat) (g : Family), 1 ≤ b → b ≤ 64 →
    let r := rangeFromBits b g
    let w := r.hi - r.lo
    let N := fun raw => normalizeRaw raw r.lo r.hi g .wrap
    (∀ raw, (r.lo ≤ N raw ∧ N raw ≤ r.hi - 1 ∧ w ∣ N raw - raw) ∧
      ∀ y, r.lo ≤ y → y ≤ r.hi - 1 → w ∣ y - raw → y = N raw) ∧
    (∀ raw, N raw = raw ↔ r.lo ≤ raw ∧ raw ≤ r.hi - 1) ∧
    N r.hi = r.lo ∧
    (∀ raw k, N (raw + k * w) = N raw) ∧ w = 2 ^ b - 1 ∧
    (∀ raw, N (N raw) = N raw) ∧
    N 0 = 0

/-- R85: the laws of the unsigned Clamp. -/
def Obligations.UnsignedClampLaws : Prop :=
  ∀ b : Nat, 1 ≤ b → b ≤ 64 →
    let hi := (rangeFromBits b .unsigned).hi
    let N := fun raw => normalizeRaw raw (rangeFromBits b .unsigned).lo hi .unsigned .clamp
    (∀ raw, N raw = raw ↔ 0 ≤ raw ∧ raw ≤ hi) ∧
    (∀ x y, x ≤ y → N x ≤ N y) ∧
    (∀ raw, N (N raw) = N raw) ∧
    (∀ raw, (0 ≤ N raw ∧ N raw ≤ hi) ∧
      ∀ y, 0 ≤ y → y ≤ hi → y ≠ N raw → |raw - N raw| < |raw - y|)

/-- R86: the laws of the signed Clamp from two bits on. -/
def Obligations.SignedClampLaws : Prop :=
  ∀ b : Nat, 2 ≤ b → b ≤ 64 →
    let lo := (rangeFromBits b .signed).lo
    let hi := (rangeFromBits b .signed).hi
    let a := -lo
    let w := hi - lo
    let N := fun raw => normalizeRaw raw lo hi .signed .clamp
    (lo < 0 ∧ hi = a + 1 ∧ w = 2 * a + 1) ∧
    ((∀ x y, x ≤ y → N x ≤ N y) ∧ (∀ raw, raw ≤ 0 → N raw = lo) ∧ (∀ raw, w ≤ raw → N raw = hi)) ∧
    ((∀ raw, N raw = raw ↔ raw = lo) ∧ N 0 = lo ∧ N hi = 1) ∧
    (N 1 = lo + 1 ∧ N (N 1) = lo ∧ N (N 1) ≠ N 1) ∧
    ((∀ raw, N (N (N (N raw))) = lo) ∧ N lo = lo ∧
      (∀ y, lo < y → y ≤ 0 → N y = lo) ∧
      (∀ y, 0 < y → y ≤ a → N y = y - a ∧ (1 - a ≤ N y ∧ N y ≤ 0) ∧ N (N y) = lo) ∧
      (N hi = 1 ∧ N (N hi) = 1 - a ∧ N (N (N hi)) = lo)) ∧
    (∀ raw, hi < raw → raw < w → N raw ≠ hi)

/-- The widths of R87 for a 128-bit operand: bounds, all inside 129 signed bits, on the width, the offset,
the minimum, the composed clamp, the remainder and the corrected remainder of R71 to R74, and every
result read back from 65 bits. It rests on log entry 15 (DEDUCED): R87's `0 .. 2^64 - 1` is read as a
bound on the composed clamp; for a negative `raw` the minimum alone is `raw` and goes down to -2^127. -/
def Obligations.NormalizeFitsTheRegisters : Prop :=
  ∀ (d : RawBus) (b : Nat) (g : Family) (p : Policy), 1 ≤ b → b ≤ 64 →
    let r := rangeFromBits b g
    let raw := d.toInt
    let w := r.hi - r.lo
    let m := tmod (raw - r.lo) w
    let y := normalizeRaw raw r.lo r.hi g p
    (1 ≤ w ∧ w ≤ 2 ^ 64 - 1) ∧
    (-2 ^ 127 ≤ raw - r.lo ∧ raw - r.lo ≤ 2 ^ 127 + 2 ^ 63 - 2) ∧
    (-2 ^ 127 ≤ min w raw ∧ min w raw ≤ 2 ^ 64 - 1) ∧
    (0 ≤ max 0 (min w raw) ∧ max 0 (min w raw) ≤ 2 ^ 64 - 1) ∧
    (-(2 ^ 64 - 2) ≤ m ∧ m ≤ 2 ^ 64 - 2) ∧
    (0 ≤ correctRemainder m w ∧ correctRemainder m w ≤ 2 ^ 64 - 2) ∧
    (-(2 ^ 63 - 1) ≤ y ∧ y ≤ 2 ^ 64 - 1) ∧ (enc65 y).toInt = y

/-- R98: what GET does to an instance, and what any number of GETs return. -/
def Obligations.EffectOfRepeatedGets : Prop :=
  ∀ (s : State) (d : RawBus) (n : Nat), s.Consistent → s.constructed = true →
    let lo := s.lo.toInt
    let hi := s.hi.toInt
    let y := s.val.toInt
    let run := serveAll (gets n d) s
    let returned := run.2.map (fun r => r.data0.toInt)
    ((∀ r ∈ run.2, r.status = .ok ∧ r.data1 = 0#65) ∧ run.2.length = n) ∧
    (¬ s.SignedClamp →
      (s.cfg.pol = .wrap → lo ≤ y ∧ y ≤ hi - 1) ∧ (s.cfg.pol = .clamp → 0 ≤ y ∧ y ≤ hi) ∧
      exec .get s = .next { s with rsp := some ⟨.ok, s.val, 0#65⟩ } ∧
      run.1.val = s.val ∧ returned = List.replicate n y) ∧
    (s.SignedClamp →
      (∃ v : ValWord, v.toInt = lo + clamp3 y 0 (hi - lo) ∧
        exec .get s = .next { s with val := v, rsp := some ⟨.ok, v, 0#65⟩ } ∧ (v = s.val ↔ y = lo)) ∧
      (y ≤ 0 → returned = List.replicate n lo) ∧
      (0 < y → y ≤ -lo → returned = ((y + lo) :: List.replicate n lo).take n) ∧
      (y = hi → returned = (1 :: (1 + lo) :: List.replicate n lo).take n) ∧
      (3 ≤ n → run.1.val = s.lo))

/-- R99: when reading gives back what was written. -/
def Obligations.WhenReadingReturnsTheWrittenValue : Prop :=
  ∀ (s : State) (x d : RawBus) (n : Nat), s.Consistent → s.constructed = true →
    let t := serve (.command 0x3000#16 x) s
    let u := serve (.command 0x4000#16 d) t
    let run := serveAll (gets n d) t
    t.rsp = some ⟨.ok, t.val, 0#65⟩ ∧
    t.val.toInt = normalizeRaw x.toInt s.lo.toInt s.hi.toInt s.cfg.sgn s.cfg.pol ∧
    (¬ s.SignedClamp → run.1.val = t.val ∧ run.2 = List.replicate n ⟨.ok, t.val, 0#65⟩) ∧
    (s.SignedClamp → (u.rsp = t.rsp ↔ t.val = s.lo) ∧ (t.val = s.lo ↔ x.toInt ≤ 0)) ∧
    t.ValueInRange ∧ u.ValueInRange ∧ u.rsp = some ⟨.ok, u.val, 0#65⟩

/-- R146: what a write to a signed Clamp instance stores, and when reading it back returns the operand. -/
def Obligations.SignedClampWriteStoresTheOffset : Prop :=
  ∀ (s : State) (x d : RawBus), s.Consistent → s.constructed = true → s.SignedClamp →
    let lo := s.lo.toInt
    let hi := s.hi.toInt
    let raw := x.toInt
    let t := serve (.command 0x3000#16 x) s
    let u := serve (.command 0x4000#16 d) t
    t.val.toInt = lo + clamp3 raw 0 (hi - lo) ∧
    (raw ≤ 0 → t.val.toInt = lo) ∧
    (0 < raw → raw < hi - lo → t.val.toInt = raw + lo) ∧
    (hi - lo ≤ raw → t.val.toInt = hi) ∧
    (lo ≤ raw → raw ≤ hi → (u.val.toInt = raw ↔ raw = lo))

/-- Under Wrap a write of `HI` stores `LO`, and operands a multiple of `2^bits - 1` apart store the same
value (70_reset_and_hazards.md section 3). -/
def Obligations.WrapCannotStoreHi : Prop :=
  ∀ (s : State) (x x' : RawBus) (k : Int), s.Consistent → s.constructed = true → s.cfg.pol = .wrap →
    (x.toInt = s.hi.toInt → (serve (.command 0x3000#16 x) s).val = s.lo) ∧
    (x'.toInt = x.toInt + k * (2 ^ s.cfg.bits.toNat - 1) →
      (serve (.command 0x3000#16 x') s).val = (serve (.command 0x3000#16 x) s).val)

/-- The invariant holds after reset, whatever the host has lined up. -/
def Obligations.ConsistentAfterReset : Prop :=
  ∀ es : List HostEvent, ({ State.reset with host := es } : State).Consistent

/-- Every step keeps the invariant. -/
def Obligations.StepKeepsConsistent : Prop :=
  ∀ s t : State, s.Consistent → step s = .next t → t.Consistent

/-- R21: after any run of any host from reset, the value of a live instance is in its range. -/
def Obligations.ReachableValueIsInRange : Prop :=
  ∀ (es : List HostEvent) (n : Nat) (t : State),
    Host.Core.run Sys2Proof.core n ({ State.reset with host := es } : State) = .next t →
    t.constructed = true → t.ValueInRange

/-- R14: who sets and who clears `CONSTRUCTED`, and what is refused while it is 0. -/
def Obligations.WhoChangesConstructed : Prop :=
  (∀ s t : State, step s = .next t →
    (t.constructed = true ↔
      (∃ w d rest, s.host = .command w d :: rest ∧ constructs w = true) ∨
      (s.constructed = true ∧ s.host.head? ≠ some .reset))) ∧
  (∀ s : State, s.constructed = false → ∀ i ∈ [Instr.set, .get],
    ∃ t r, exec i s = .next t ∧ t.rsp = some r ∧ r.status = .notConstructed)

/-- R17: only an accepted construction (or reset, which ends the instance) changes the configuration,
and a refused command changes no register at all. -/
def Obligations.ConfigurationIsImmutable : Prop :=
  (∀ s t : State, step s = .next t → s.constructed = true → s.host.head? ≠ some .reset →
    (∀ w d rest, s.host = .command w d :: rest → constructs w = false) →
    t.constructed = true ∧ t.cfg = s.cfg ∧ t.lo = s.lo ∧ t.hi = s.hi) ∧
  (∀ (s t : State) (r : Response), step s = .next t → t.rsp = some r → r.status ≠ .ok →
    t.SameRegisters s)

/-- R96: nothing of an old instance influences a new one, and a refused construction leaves the old one
intact. -/
def Obligations.ReconstructionForgetsTheOldInstance : Prop :=
  (∀ (p : Policy) (g : Family) (b : Nat) (s s' : State), s.cmdData = s'.cmdData → s.host = s'.host →
    1 ≤ b → b ≤ 64 → ∀ i ∈ [Instr.cons p g b, .consz p g b],
      ∃ t, exec i s = .next t ∧ exec i s' = .next t ∧ t.constructed = true) ∧
  (∀ (s : State) (w : CmdWord) (d : RawBus) (rest : List HostEvent), s.host = .command w d :: rest →
    opField w = 1 ∨ opField w = 2 → constructs w = false →
      ∃ t, step s = .next t ∧ t.SameRegisters s)

/-- R22: `CONSTRUCTED` is 0 after reset, and no run tells two blocks apart that differ only in the
registers of an instance that does not exist; so the values the model gives those registers at reset
(its own choice, log entry 4) are never observed. -/
def Obligations.UnconstructedRegistersAreUnobservable : Prop :=
  State.reset.constructed = false ∧
  ∀ (s t : State) (n : Nat), s.LooksLike t → responses n s = responses n t

/-- The step of the preceding statement: two blocks that no host can tell apart answer alike and stay so
(R22, R24). -/
def Obligations.StepKeepsBlocksIndistinguishable : Prop :=
  ∀ s t : State, s.LooksLike t →
    ∃ s' t', step s = .next s' ∧ step t = .next t' ∧ s'.rsp = t'.rsp ∧ s'.LooksLike t'

/-- The operand bus has no effect on the commands that do not use it (30_encoding.md section 2). -/
def Obligations.UnusedOperandIsIgnored : Prop :=
  ∀ (s : State) (w : CmdWord) (d d' : RawBus) (rest : List HostEvent) (i : Instr),
    decode w = .ok i →
    (i = .get ∨ (∃ p g b, i = .consz p g b) ∨ (∃ b, i = .urange b) ∨ (∃ b, i = .srange b)) →
    ∃ t, step { s with host := .command w d :: rest } = .next t ∧
      step { s with host := .command w d' :: rest } = .next { t with cmdData := d' }

/-- Repeating any command but GET leaves the state it left (20_memory.md section 2). -/
def Obligations.RepeatingACommandChangesNothing : Prop :=
  ∀ (i : Instr) (s t : State), i ≠ .get → exec i s = .next t → exec i t = .next t

/-- R35: a run is the fold of the host's events, and its responses are theirs, in order, one for each
command. -/
def Obligations.RunIsTheFoldOfTheEvents : Prop :=
  ∀ (es rest : List HostEvent) (s : State),
    let folded := serveAll es { s with host := [] }
    Host.Core.run Sys2Proof.core es.length ({ s with host := es ++ rest } : State) =
      .next ({ folded.1 with host := rest } : State) ∧
    responses es.length { s with host := es ++ rest } = folded.2 ∧
    folded.2.length = es.countP HostEvent.isCommand

/-- Reset ends the instance and answers nothing (70_reset_and_hazards.md section 1). -/
def Obligations.ResetEndsTheInstance : Prop :=
  ∀ (s : State) (rest : List HostEvent), s.host = .reset :: rest →
    ∃ t, step s = .next t ∧ t.constructed = false ∧ t.rsp = none ∧ t.host = rest

/-- MODEL's inference (log entry 11, DEDUCED): a step with no event changes no register and answers
nothing. The spec has no such command; it says that a host with nothing to do holds `cmd_valid = 0`
(R45) and names the commands and reset as the only writers of a register (R10). -/
def Obligations.IdleStepChangesNothing : Prop :=
  ∀ s : State, s.host = [] → ∃ t, step s = .next t ∧ t.SameRegisters s ∧ t.rsp = none ∧ t.host = []

/-- The handshake of R40 around one transaction: the command is accepted, `cmd_ready` is low and
`rsp_valid` low until the response cycle, `LAT` cycles later, which carries the response that `step`
computes; in the cycle after it the port is ready and the registers are those `step` computes. `LAT` is
the free value of log entry 5; that `step` is the whole transaction, with the ports beside it, is log
entry 10. -/
def Obligations.HandshakeCarriesTheTransaction : Prop :=
  ∀ (b : Block) (p : PinsIn), b.flight = none → p.rst = false → p.cmdValid = true →
    ∃ (t : State) (r : Response) (b0 b' : Block),
      step (offer (.command p.cmdWord p.cmdData) b.arch) = .next t ∧ t.rsp = some r ∧
      (outputs b p).cmdReady = true ∧ edge b p = .next b0 ∧ 1 ≤ Config.lat b.accepted ∧
      (∀ k, 1 ≤ k → k ≤ Config.lat b.accepted → ∃ bk, waitQuiet p (k - 1) b0 = .next bk ∧
        (outputs bk (quiet p)).cmdReady = false ∧
        ((outputs bk (quiet p)).rspValid = true ↔ k = Config.lat b.accepted) ∧
        (k = Config.lat b.accepted →
          (outputs bk (quiet p)).rspStatus = r.status.code ∧
          (outputs bk (quiet p)).rspData0 = r.data0 ∧ (outputs bk (quiet p)).rspData1 = r.data1)) ∧
      waitQuiet p (Config.lat b.accepted) b0 = .next b' ∧
      (outputs b' (quiet p)).cmdReady = true ∧ (outputs b' (quiet p)).rspValid = false ∧
      b'.flight = none ∧ b'.arch = t

/-- A rising edge with `rst = 1`, in any block: no command is accepted or answered, a command in flight
is dropped and the instance ends (R141, R142). -/
def Obligations.PortResetDropsTheCommand : Prop :=
  ∀ (b : Block) (p : PinsIn), p.rst = true →
    (outputs b p).cmdReady = false ∧ (outputs b p).rspValid = false ∧
    ∃ b', edge b p = .next b' ∧ b'.flight = none ∧ b'.arch.constructed = false

/-- MODEL's choice (log entry 7): presenting a command while one is in flight stops the cycle-level
model. -/
def Obligations.CommandWhileBusyFaults : Prop :=
  ∀ (b : Block) (p : PinsIn) (f : Flight), b.flight = some f → p.rst = false → p.cmdValid = true →
    (outputs b p).cmdReady = false ∧ edge b p = .fault .commandWhileBusy

/-- The table of the sixteen named variants (R110). Eleven of the sixteen tags are the spec's own
inference from the five attested ones (R111; log entry 12, DEDUCED). -/
def Obligations.CatalogMatchesTheTable : Prop :=
  catalog.map (fun v => (v.tag, (cfgOf v.bits v.sgn v.pol).word.toNat,
      (encode (v.construction true)).toNat, (encode (v.construction false)).toNat)) =
    [("Uint8", 0x008, 0x1008, 0x2008), ("Uint16", 0x010, 0x1010, 0x2010),
     ("Uint32", 0x020, 0x1020, 0x2020), ("Uint64", 0x040, 0x1040, 0x2040),
     ("Uint8Clamped", 0x108, 0x1108, 0x2108), ("Uint16Clamped", 0x110, 0x1110, 0x2110),
     ("Uint32Clamped", 0x120, 0x1120, 0x2120), ("Uint64Clamped", 0x140, 0x1140, 0x2140),
     ("Int8", 0x088, 0x1088, 0x2088), ("Int16", 0x090, 0x1090, 0x2090),
     ("Int32", 0x0A0, 0x10A0, 0x20A0), ("Int64", 0x0C0, 0x10C0, 0x20C0),
     ("Int8Clamped", 0x188, 0x1188, 0x2188), ("Int16Clamped", 0x190, 0x1190, 0x2190),
     ("Int32Clamped", 0x1A0, 0x11A0, 0x21A0), ("Int64Clamped", 0x1C0, 0x11C0, 0x21C0)]

/-- A construction copies `cmd[8:0]` into `CFG` (R12's layout). -/
def Obligations.ConstructionCopiesTheConfigurationField : Prop :=
  ∀ (s : State) (w : CmdWord) (d : RawBus) (rest : List HostEvent), s.host = .command w d :: rest →
    constructs w = true →
    ∃ t, step s = .next t ∧ t.cfg.word = w.extractLsb' 0 9 ∧
      (1 ≤ t.cfg.bits.toNat ∧ t.cfg.bits.toNat ≤ 64) ∧ t.constructed = true

/-- The display string performs a GET and prints the value it returns with the variant's tag (R113). The
numeral's form is general knowledge (GK1; log entry 12, PRESUMED), and eleven of the tags are the
spec's own inference (R111; log entry 12, DEDUCED). -/
def Obligations.DisplayPerformsAGet : Prop :=
  ∀ (s : State) (v : Variant), s.constructed = true → variantOfCfg s.cfg = some v →
    ∃ t, exec .get s = .next t ∧
      displayInstance s = .next (t, some (v.tag ++ "(" ++ toString t.val.toInt ++ ")"))
end

