-- ==== Sys2Proof/Laws/Arith.lean ====
section
/-! SUPPORT. The spec's primitives on integers and the closed forms of a range. -/

namespace Sys2Proof.Machine

theorem tmod_eq (a n : Int) : tmod a n = Int.tmod a n := by
  have := Int.mul_tdiv_add_tmod a n
  unfold tmod
  omega

theorem emod_eq (a n : Int) (hn : 0 < n) : emod a n = a % n := by
  have h := Int.mul_fdiv_add_fmod a n
  have h' := Int.fmod_eq_emod_of_nonneg a hn.le
  unfold emod
  omega

/-- The width of a legal range fits 64 bits and is at least 1. -/
theorem two_pow_bounds {bits : Nat} (h : bitsLegal bits = true) :
    (2 : Int) ≤ 2 ^ bits ∧ (2 : Int) ^ bits ≤ 2 ^ 64 := by
  simp only [bitsLegal, Config.bitsMin, Config.bitsMax, Bool.and_eq_true, decide_eq_true_eq] at h
  constructor
  · calc (2 : Int) = 2 ^ 1 := by norm_num
      _ ≤ 2 ^ bits := by gcongr; exacts [by norm_num, h.1]
  · gcongr
    exacts [by norm_num, h.2]

/-- `2^bits` is twice `2^(bits-1)`. -/
theorem two_pow_pred {bits : Nat} (h : 1 ≤ bits) : (2 : Int) ^ bits = 2 * 2 ^ (bits - 1) := by
  obtain ⟨k, rfl⟩ := Nat.exists_eq_add_of_le' h
  simp [pow_succ, mul_comm]

theorem bitsLegal_iff (bits : Nat) : bitsLegal bits = true ↔ 1 ≤ bits ∧ bits ≤ 64 := by
  simp [bitsLegal, Config.bitsMin, Config.bitsMax]

end Sys2Proof.Machine
end

