-- ==== Sys2Proof/Laws/State.lean ====
section
/-! SUPPORT. One lemma for each field of State under each operation that writes State, true by `rfl`. -/

namespace Sys2Proof.Machine

@[simp] theorem respond_constructed (st : Status) (d0 d1 : Int) (s : State) :
    (respond st d0 d1 s).constructed = s.constructed := rfl
@[simp] theorem respond_cfg (st : Status) (d0 d1 : Int) (s : State) :
    (respond st d0 d1 s).cfg = s.cfg := rfl
@[simp] theorem respond_lo (st : Status) (d0 d1 : Int) (s : State) :
    (respond st d0 d1 s).lo = s.lo := rfl
@[simp] theorem respond_hi (st : Status) (d0 d1 : Int) (s : State) :
    (respond st d0 d1 s).hi = s.hi := rfl
@[simp] theorem respond_val (st : Status) (d0 d1 : Int) (s : State) :
    (respond st d0 d1 s).val = s.val := rfl
@[simp] theorem respond_cmdData (st : Status) (d0 d1 : Int) (s : State) :
    (respond st d0 d1 s).cmdData = s.cmdData := rfl
@[simp] theorem respond_rsp (st : Status) (d0 d1 : Int) (s : State) :
    (respond st d0 d1 s).rsp = some ⟨st, enc65 d0, enc65 d1⟩ := rfl
@[simp] theorem respond_host (st : Status) (d0 d1 : Int) (s : State) :
    (respond st d0 d1 s).host = s.host := rfl

@[simp] theorem raiseRefusal_constructed (st : Status) (s : State) :
    (raiseRefusal st s).constructed = s.constructed := rfl
@[simp] theorem raiseRefusal_cfg (st : Status) (s : State) : (raiseRefusal st s).cfg = s.cfg := rfl
@[simp] theorem raiseRefusal_lo (st : Status) (s : State) : (raiseRefusal st s).lo = s.lo := rfl
@[simp] theorem raiseRefusal_hi (st : Status) (s : State) : (raiseRefusal st s).hi = s.hi := rfl
@[simp] theorem raiseRefusal_val (st : Status) (s : State) : (raiseRefusal st s).val = s.val := rfl
@[simp] theorem raiseRefusal_cmdData (st : Status) (s : State) :
    (raiseRefusal st s).cmdData = s.cmdData := rfl
@[simp] theorem raiseRefusal_rsp (st : Status) (s : State) :
    (raiseRefusal st s).rsp = some ⟨st, enc65 0, enc65 0⟩ := rfl
@[simp] theorem raiseRefusal_host (st : Status) (s : State) :
    (raiseRefusal st s).host = s.host := rfl

@[simp] theorem configure_constructed (b : Nat) (g : Family) (p : Policy) (r : Range) (s : State) :
    (configure b g p r s).constructed = true := rfl
@[simp] theorem configure_cfg (b : Nat) (g : Family) (p : Policy) (r : Range) (s : State) :
    (configure b g p r s).cfg = cfgOf b g p := rfl
@[simp] theorem configure_lo (b : Nat) (g : Family) (p : Policy) (r : Range) (s : State) :
    (configure b g p r s).lo = enc65 r.lo := rfl
@[simp] theorem configure_hi (b : Nat) (g : Family) (p : Policy) (r : Range) (s : State) :
    (configure b g p r s).hi = enc65 r.hi := rfl
@[simp] theorem configure_val (b : Nat) (g : Family) (p : Policy) (r : Range) (s : State) :
    (configure b g p r s).val = s.val := rfl
@[simp] theorem configure_cmdData (b : Nat) (g : Family) (p : Policy) (r : Range) (s : State) :
    (configure b g p r s).cmdData = s.cmdData := rfl
@[simp] theorem configure_rsp (b : Nat) (g : Family) (p : Policy) (r : Range) (s : State) :
    (configure b g p r s).rsp = s.rsp := rfl
@[simp] theorem configure_host (b : Nat) (g : Family) (p : Policy) (r : Range) (s : State) :
    (configure b g p r s).host = s.host := rfl

@[simp] theorem commitValue_constructed (y : Int) (s : State) :
    (commitValue y s).constructed = s.constructed := rfl
@[simp] theorem commitValue_cfg (y : Int) (s : State) : (commitValue y s).cfg = s.cfg := rfl
@[simp] theorem commitValue_lo (y : Int) (s : State) : (commitValue y s).lo = s.lo := rfl
@[simp] theorem commitValue_hi (y : Int) (s : State) : (commitValue y s).hi = s.hi := rfl
@[simp] theorem commitValue_val (y : Int) (s : State) : (commitValue y s).val = enc65 y := rfl
@[simp] theorem commitValue_cmdData (y : Int) (s : State) :
    (commitValue y s).cmdData = s.cmdData := rfl
@[simp] theorem commitValue_rsp (y : Int) (s : State) :
    (commitValue y s).rsp = some ⟨.ok, enc65 y, enc65 0⟩ := rfl
@[simp] theorem commitValue_host (y : Int) (s : State) : (commitValue y s).host = s.host := rfl

@[simp] theorem accept_constructed (d : RawBus) (es : List HostEvent) (s : State) :
    (accept d es s).constructed = s.constructed := rfl
@[simp] theorem accept_cfg (d : RawBus) (es : List HostEvent) (s : State) :
    (accept d es s).cfg = s.cfg := rfl
@[simp] theorem accept_lo (d : RawBus) (es : List HostEvent) (s : State) :
    (accept d es s).lo = s.lo := rfl
@[simp] theorem accept_hi (d : RawBus) (es : List HostEvent) (s : State) :
    (accept d es s).hi = s.hi := rfl
@[simp] theorem accept_val (d : RawBus) (es : List HostEvent) (s : State) :
    (accept d es s).val = s.val := rfl
@[simp] theorem accept_cmdData (d : RawBus) (es : List HostEvent) (s : State) :
    (accept d es s).cmdData = d := rfl
@[simp] theorem accept_rsp (d : RawBus) (es : List HostEvent) (s : State) :
    (accept d es s).rsp = s.rsp := rfl
@[simp] theorem accept_host (d : RawBus) (es : List HostEvent) (s : State) :
    (accept d es s).host = es := rfl

@[simp] theorem idle_constructed (s : State) : (idle s).constructed = s.constructed := rfl
@[simp] theorem idle_cfg (s : State) : (idle s).cfg = s.cfg := rfl
@[simp] theorem idle_lo (s : State) : (idle s).lo = s.lo := rfl
@[simp] theorem idle_hi (s : State) : (idle s).hi = s.hi := rfl
@[simp] theorem idle_val (s : State) : (idle s).val = s.val := rfl
@[simp] theorem idle_cmdData (s : State) : (idle s).cmdData = s.cmdData := rfl
@[simp] theorem idle_rsp (s : State) : (idle s).rsp = none := rfl
@[simp] theorem idle_host (s : State) : (idle s).host = s.host := rfl

@[simp] theorem offer_constructed (e : HostEvent) (s : State) :
    (offer e s).constructed = s.constructed := rfl
@[simp] theorem offer_cfg (e : HostEvent) (s : State) : (offer e s).cfg = s.cfg := rfl
@[simp] theorem offer_lo (e : HostEvent) (s : State) : (offer e s).lo = s.lo := rfl
@[simp] theorem offer_hi (e : HostEvent) (s : State) : (offer e s).hi = s.hi := rfl
@[simp] theorem offer_val (e : HostEvent) (s : State) : (offer e s).val = s.val := rfl
@[simp] theorem offer_cmdData (e : HostEvent) (s : State) : (offer e s).cmdData = s.cmdData := rfl
@[simp] theorem offer_rsp (e : HostEvent) (s : State) : (offer e s).rsp = s.rsp := rfl
@[simp] theorem offer_host (e : HostEvent) (s : State) : (offer e s).host = e :: s.host := rfl

@[simp] theorem resetBlock_constructed (es : List HostEvent) :
    (resetBlock es).constructed = false := rfl
@[simp] theorem resetBlock_cfg (es : List HostEvent) : (resetBlock es).cfg = State.reset.cfg := rfl
@[simp] theorem resetBlock_lo (es : List HostEvent) : (resetBlock es).lo = State.reset.lo := rfl
@[simp] theorem resetBlock_hi (es : List HostEvent) : (resetBlock es).hi = State.reset.hi := rfl
@[simp] theorem resetBlock_val (es : List HostEvent) : (resetBlock es).val = State.reset.val := rfl
@[simp] theorem resetBlock_cmdData (es : List HostEvent) :
    (resetBlock es).cmdData = State.reset.cmdData := rfl
@[simp] theorem resetBlock_rsp (es : List HostEvent) : (resetBlock es).rsp = none := rfl
@[simp] theorem resetBlock_host (es : List HostEvent) : (resetBlock es).host = es := rfl

end Sys2Proof.Machine
end

