-- ==== Sys2Proof/Laws/Ops.lean ====
section
/-! SUPPORT. One lemma for each shared operation that says what it does. -/

namespace Sys2Proof.Machine

/-- An integer in the 65-bit range is read back from its register. -/
theorem enc65_toInt {x : Int} (h1 : -2 ^ 64 ≤ x) (h2 : x < 2 ^ 64) : (enc65 x).toInt = x := by
  rw [enc65, BitVec.toInt_ofInt, Int.bmod_def]
  split <;> omega

@[simp] theorem cfgOf_sgn (b : Nat) (g : Family) (p : Policy) : (cfgOf b g p).sgn = g := rfl

@[simp] theorem cfgOf_pol (b : Nat) (g : Family) (p : Policy) : (cfgOf b g p).pol = p := rfl

/-- A legal bit-width is kept whole by `CFG.BITS`. -/
theorem cfgOf_bits_toNat {b : Nat} (h : bitsLegal b = true) (g : Family) (p : Policy) :
    (cfgOf b g p).bits.toNat = b := by
  have := (bitsLegal_iff b).1 h
  simp only [cfgOf, BitVec.toNat_ofNat]
  omega

theorem construct_of_legal {b : Nat} (h : bitsLegal b = true) (g : Family) (p : Policy) (raw : Int)
    (s : State) :
    construct b g p raw s =
      commitValue (normalizeRaw raw (rangeFromBits b g).lo (rangeFromBits b g).hi g p)
        (configure b g p (rangeFromBits b g) s) := by
  simp [construct, h]

theorem construct_of_not_legal {b : Nat} (h : bitsLegal b = false) (g : Family) (p : Policy)
    (raw : Int) (s : State) : construct b g p raw s = raiseRefusal .badBits s := by
  simp [construct, h]

theorem accessValue_of_constructed {s : State} (h : s.constructed = true) (raw : Int) :
    accessValue raw s = commitValue (normalizeHere raw s) s := by
  simp [accessValue, h]

theorem accessValue_of_not_constructed {s : State} (h : s.constructed = false) (raw : Int) :
    accessValue raw s = raiseRefusal .notConstructed s := by
  simp [accessValue, h]

theorem queryRange_of_legal {b : Nat} (h : bitsLegal b = true) (g : Family) (s : State) :
    queryRange b g s = respond .ok (rangeFromBits b g).lo (rangeFromBits b g).hi s := by
  simp [queryRange, h]

theorem queryRange_of_not_legal {b : Nat} (h : bitsLegal b = false) (g : Family) (s : State) :
    queryRange b g s = raiseRefusal .badBits s := by
  simp [queryRange, h]

end Sys2Proof.Machine
end

