-- ==== Sys2Proof/Laws/PerInstr.lean ====
section
/-! SUPPORT. Statements about every command as syntax, one lemma for each constructor. -/

namespace Sys2Proof.Laws

/-- The word of a well-formed command selects the opcode table's row of its mnemonic (R44). -/
def TableRow.Statement (i : Instr) : Prop :=
  i.wellFormed = true →
    ∃ row ∈ opcodeTable, row.mnemonic = i.mnemonic ∧ row.selects (encode i) = true

/-- A field number is one of 128. -/
theorem bits_lt_of_fits {bits : Nat} (h : bitsFieldFits bits = true) : bits < 128 := by
  simp only [bitsFieldFits, Config.bitsFieldMax, decide_eq_true_eq] at h
  omega

theorem TableRow.cons (pol : Policy) (sgn : Family) (bits : Nat) :
    TableRow.Statement (.cons pol sgn bits) := fun h =>
  ⟨⟨"CONS", 0x1000, 0xFE00⟩, by decide, rfl, by
    have hall : ∀ b < 128, ∀ p ∈ [Policy.wrap, .clamp], ∀ g ∈ [Family.unsigned, .signed],
        OpcodeRow.selects ⟨"CONS", 0x1000, 0xFE00⟩ (encode (.cons p g b)) = true := by decide
    exact hall bits (bits_lt_of_fits h) pol (by cases pol <;> simp) sgn (by cases sgn <;> simp)⟩

theorem TableRow.consz (pol : Policy) (sgn : Family) (bits : Nat) :
    TableRow.Statement (.consz pol sgn bits) := fun h =>
  ⟨⟨"CONSZ", 0x2000, 0xFE00⟩, by decide, rfl, by
    have hall : ∀ b < 128, ∀ p ∈ [Policy.wrap, .clamp], ∀ g ∈ [Family.unsigned, .signed],
        OpcodeRow.selects ⟨"CONSZ", 0x2000, 0xFE00⟩ (encode (.consz p g b)) = true := by decide
    exact hall bits (bits_lt_of_fits h) pol (by cases pol <;> simp) sgn (by cases sgn <;> simp)⟩

theorem TableRow.set : TableRow.Statement .set := fun _ =>
  ⟨⟨"SET", 0x3000, 0xFFFF⟩, by decide, rfl, by decide⟩

theorem TableRow.get : TableRow.Statement .get := fun _ =>
  ⟨⟨"GET", 0x4000, 0xFFFF⟩, by decide, rfl, by decide⟩

theorem TableRow.urange (bits : Nat) : TableRow.Statement (.urange bits) := fun h =>
  ⟨⟨"URANGE", 0x5000, 0xFF80⟩, by decide, rfl, by
    have hall : ∀ b < 128,
        OpcodeRow.selects ⟨"URANGE", 0x5000, 0xFF80⟩ (encode (.urange b)) = true := by decide
    exact hall bits (bits_lt_of_fits h)⟩

theorem TableRow.srange (bits : Nat) : TableRow.Statement (.srange bits) := fun h =>
  ⟨⟨"SRANGE", 0x5080, 0xFF80⟩, by decide, rfl, by
    have hall : ∀ b < 128,
        OpcodeRow.selects ⟨"SRANGE", 0x5080, 0xFF80⟩ (encode (.srange b)) = true := by decide
    exact hall bits (bits_lt_of_fits h)⟩

end Sys2Proof.Laws
end

