-- ==== Sys2Proof/Laws/Step.lean ====
section
/-! SUPPORT. What one step can do, said once. -/

namespace Sys2Proof.Machine

/-- If a step answers a next state, the host's next event and that state are one of four kinds. -/
theorem step_cases {s t : State} (h : step s = .next t) :
    (s.host = [] ∧ t = idle s) ∨
    (∃ rest, s.host = .reset :: rest ∧ t = resetBlock rest) ∨
    (∃ w d rest r, s.host = .command w d :: rest ∧ decode w = .error r ∧
      t = raiseRefusal .illegalCmd (accept d rest s)) ∨
    (∃ w d rest i, s.host = .command w d :: rest ∧ decode w = .ok i ∧
      exec i (accept d rest s) = .next t) := by
  unfold step at h
  cases hs : s.host with
  | nil => simp [hs, demand] at h; simp [h]
  | cons e rest =>
    cases e with
    | reset => simp [hs, demand] at h; simp [h]
    | command w d =>
      cases hd : decode w with
      | error r => simp [hs, demand, hd] at h; simp [h, hd]
      | ok i => simp [hs, demand, hd] at h; simp [h, hd]

/-- What a command that runs can do: an exec that answers a next state is one of three operations. -/
theorem exec_cases (i : Instr) (s : State) :
    (∃ b g p raw, exec i s = .next (construct b g p raw s)) ∨
    (∃ raw, exec i s = .next (accessValue raw s)) ∨
    (∃ b g, exec i s = .next (queryRange b g s)) := by
  cases i with
  | cons p g b => exact .inl ⟨b, g, p, dataOperand s, rfl⟩
  | consz p g b => exact .inl ⟨b, g, p, 0, rfl⟩
  | set => exact .inr (.inl ⟨dataOperand s, rfl⟩)
  | get => exact .inr (.inl ⟨sint65 s.val, rfl⟩)
  | urange b => exact .inr (.inr ⟨b, .unsigned, rfl⟩)
  | srange b => exact .inr (.inr ⟨b, .signed, rfl⟩)

end Sys2Proof.Machine
end

