-- ==== Sys2Proof/Tests/Slice0.lean ====
section
/-! SUPPORT. The model's own tests: expected results are the spec's (30_encoding.md R50,
95_test_vectors.md), and, for every statement of Certificates/Slice0/Obligations.lean that has
hypotheses, a state and operands that meet them. -/

namespace Sys2Proof.Tests

open Sys2Proof Sys2Proof.Machine

/-- A live 8-bit instance, its bounds as 43_variant_catalog.md R110 gives them. -/
def live8 (sgn : Family) (pol : Policy) (v : Int) : State :=
  { State.reset with
    constructed := true
    cfg := cfgOf 8 sgn pol
    lo := match sgn with
      | .unsigned => enc65 0
      | .signed => enc65 (-127)
    hi := match sgn with
      | .unsigned => enc65 255
      | .signed => enc65 128
    val := enc65 v }

/-- The state whose host presents one command. -/
def presented (w : CmdWord) (raw : Int) (s : State) : State :=
  { s with host := [.command w (BitVec.ofInt 128 raw)] }

/-- The response of the next step, its data as integers. -/
def answer (s : State) : Option (Status × Int × Int) :=
  (after s).rsp.map fun r => (r.status, r.data0.toInt, r.data1.toInt)

/-! WellFormed: an ill-formed term for each check. -/

theorem test_wf_cons_128_refused : (Instr.cons .wrap .unsigned 128).wellFormed = false := by decide
theorem test_wf_consz_128_refused : (Instr.consz .clamp .signed 128).wellFormed = false := by decide
theorem test_wf_urange_128_refused : (Instr.urange 128).wellFormed = false := by decide
theorem test_wf_srange_200_refused : (Instr.srange 200).wellFormed = false := by decide

/-! Words written out bit by bit: OP, RSV, POL, SGN, BITS (R41). -/

theorem test_decode_cons : decode 0b0001_000_1_1_0100000 = .ok (.cons .clamp .signed 32) := by decide
theorem test_decode_consz : decode 0b0010_000_0_1_0001000 = .ok (.consz .wrap .signed 8) := by decide
theorem test_decode_set : decode 0b0011_000_0_0_0000000 = .ok .set := by decide
theorem test_decode_get : decode 0b0100_000_0_0_0000000 = .ok .get := by decide
theorem test_decode_urange : decode 0b0101_000_0_0_0001000 = .ok (.urange 8) := by decide
theorem test_decode_srange : decode 0b0101_000_0_1_1000000 = .ok (.srange 64) := by decide
theorem test_decode_bad_bits_is_legal : decode 0x1041 = .ok (.cons .wrap .unsigned 65) := by decide
theorem test_decode_zero_word : decode 0x0000 = .error .unassignedOp := by decide
theorem test_decode_set_with_bits : decode 0x3001 = .error .unusedField := by decide
theorem test_decode_range_with_policy : decode 0x5100 = .error .unusedField := by decide
theorem test_decode_reserved_bits : decode 0x1208 = .error .reservedBits := by decide
theorem test_encode_new_int32clamped : encode (.cons .clamp .signed 32) = 0x11A0 := by decide
theorem test_table_word_srange : decodeTableWord 16 0x5088 = some (.srange 8) := by decide
theorem test_table_word_illegal : decodeTableWord 16 0x6000 = none := by decide

/-! One step of each command (95_test_vectors.md, the vector named). -/

/-- W3: the modulus of Uint8 is 255. -/
theorem test_cons_W3 : answer (presented 0x1008 256 State.reset) = some (.ok, 1, 0) := by decide
/-- K14: above `hi`, yet not pinned to it. -/
theorem test_cons_K14 : answer (presented 0x1188 200 State.reset) = some (.ok, 73, 0) := by decide
/-- A13: the bounded form of 0 is `lo`. -/
theorem test_consz_A13 : answer (presented 0x2188 12345 State.reset) = some (.ok, -127, 0) := by decide
/-- A4: the bounds a construction writes. -/
theorem test_consz_A4 : (after (presented 0x2040 1 State.reset)).hi.toInt = 18446744073709551615 := by
  decide
/-- E28. -/
theorem test_set_E28 :
    answer (presented 0x3000 300 (live8 .unsigned .wrap 7)) = some (.ok, 45, 0) := by decide
/-- W21: `lo - 1` maps to `hi - 1`. -/
theorem test_set_W21 :
    answer (presented 0x3000 (-128) (live8 .signed .wrap 7)) = some (.ok, 127, 0) := by decide
/-- A18, the first GET: reading changes a signed Clamp instance. -/
theorem test_get_A18 : (after (presented 0x4000 5 (live8 .signed .clamp 128))).val.toInt = 1 := by decide
/-- E27. -/
theorem test_get_E27 : answer (presented 0x4000 0 State.reset) = some (.notConstructed, 0, 0) := by
  decide
/-- G23. -/
theorem test_urange_G23 :
    answer (presented 0x5040 9 State.reset) = some (.ok, 0, 18446744073709551615) := by decide
/-- E22: a bad width leaves the instance as it was. -/
theorem test_urange_E22 :
    (after (presented 0x5000 0 (live8 .unsigned .wrap 7))).rsp = some ⟨.badBits, 0, 0⟩ ∧
      (after (presented 0x5000 0 (live8 .unsigned .wrap 7))).val.toInt = 7 := by decide
/-- The bus images of SRANGE 8. -/
theorem test_srange_bus :
    (after (presented 0x5088 0 State.reset)).rsp =
      some ⟨.ok, 0x1FFFFFFFFFFFFFF81, 0x00000000000000080⟩ := by decide
/-- G31's neighbour G32. -/
theorem test_srange_G32 : answer (presented 0x50FF 0 State.reset) = some (.badBits, 0, 0) := by decide

/-- E25: IllegalCmd has priority over BadBits. -/
theorem test_illegal_E25 :
    answer (presented 0x1200 0 (live8 .unsigned .wrap 7)) = some (.illegalCmd, 0, 0) := by decide

theorem test_fetch_word :
    answer (State.reset.withFetchWord 16 0x5083) = some (.ok, -3, 4) := by decide

theorem test_status_codes :
    [Status.ok, .illegalCmd, .badBits, .notConstructed].map Status.code = [0, 1, 2, 3] := by decide

theorem test_cfg_word : (cfgOf 32 .signed .clamp).word = 0x1A0 := by decide

/-! Host-side functions (R48, R49, R113). -/

theorem test_assemble_new :
    assembleLines ["NEW Uint8Clamped, #300 ; saturates"] = some [.command 0x1108 300] := by decide
theorem test_assemble_power :
    assembleLines ["set #2^127 - 1", "  ", "RANGE 8, S"] =
      some [.command 0x3000 0x7FFFFFFFFFFFFFFFFFFFFFFFFFFFFFFF, .command 0x5088 0] := by decide
theorem test_assemble_out_of_range : assembleLines ["SET #2^127"] = none := by decide
theorem test_display : display "Uint16" 42 = "Uint16(42)" := by decide
theorem test_display_instance :
    (match displayInstance (live8 .signed .clamp (-127)) with
      | .next (_, text) => text
      | _ => none) = some "Int8Clamped(-127)" := by decide

/-! Witnesses: hypotheses of the statements, met together. -/

theorem witness_DecodeOfEncodeReturnsTheCommand :
    (Instr.cons .clamp .signed 127).wellFormed = true ∧ (Instr.consz .wrap .unsigned 0).wellFormed = true ∧
      Instr.set.wellFormed = true ∧ Instr.get.wellFormed = true ∧
      (Instr.urange 127).wellFormed = true ∧ (Instr.srange 0).wellFormed = true := by decide

theorem witness_EncodeOfDecodeReturnsTheWord : decode 0x11FF = .ok (.cons .clamp .signed 127) := by
  decide

theorem witness_DecodeSelectsTheTableRow :
    ⟨"URANGE", 0x5000, 0xFF80⟩ ∈ opcodeTable ∧
      OpcodeRow.selects ⟨"URANGE", 0x5000, 0xFF80⟩ 0x507F = true ∧
      OpcodeRow.selects ⟨"SRANGE", 0x5080, 0xFF80⟩ 0x5080 = true := by decide

theorem witness_StepRunsTheDecodedCommand :
    (presented 0x11FF 5 State.reset).host = .command 0x11FF 5 :: [] ∧
      decode 0x11FF = .ok (.cons .clamp .signed 127) := by decide

/-- One word for each kind of illegal word, and one that is legal. -/
theorem witness_IllegalWordIsRefused :
    (presented 0x0000 5 State.reset).host = .command 0x0000 5 :: [] ∧ opField 0x0000 = 0 ∧
      opField 0x6000 = 6 ∧ opField 0xF000 = 15 ∧ rsvField 0x1208 ≠ 0 ∧
      (opField 0x3001 = 3 ∧ bitsField 0x3001 ≠ 0) ∧ (opField 0x4100 = 4 ∧ polField 0x4100 = true) ∧
      (opField 0x5100 = 5 ∧ polField 0x5100 = true) ∧
      (∀ row ∈ opcodeTable, row.selects 0x0000 = false) ∧
      step (presented 0x0000 5 State.reset) =
        .next { State.reset with cmdData := 5, rsp := some ⟨.illegalCmd, 0, 0⟩ } :=
  ⟨by decide, by decide, by decide, by decide, by decide, by decide, by decide, by decide, by decide,
    by rfl⟩

theorem witness_BadBitsIsRefused :
    (0 = 0 ∨ 65 ≤ 0) ∧ ((65 = 0 ∨ 65 ≤ 65) ∧ (1 ≤ 1 ∧ 1 ≤ 64) ∧ (1 ≤ 64 ∧ 64 ≤ 64)) ∧
      Instr.srange 65 ∈ [Instr.cons .clamp .signed 65, .consz .clamp .signed 65, .urange 65, .srange 65] := by
  decide

theorem witness_NotConstructedIsRefused :
    State.reset.constructed = false ∧ Instr.get ∈ [Instr.set, .get] ∧
      exec .get State.reset = .next { State.reset with rsp := some ⟨.notConstructed, 0, 0⟩ } :=
  ⟨by decide, by decide, by rfl⟩

theorem witness_StatusFollowsTheDecodeOrder :
    (presented 0x4000 5 (live8 .unsigned .wrap 7)).host = .command 0x4000 5 :: [] ∧
      statusByTable 0x4000 true = .ok ∧ statusByTable 0x4000 false = .notConstructed ∧
      statusByTable 0x1000 true = .badBits ∧ statusByTable 0x1041 false = .badBits ∧
      statusByTable 0x1040 false = .ok ∧ statusByTable 0x1200 true = .illegalCmd := by decide

theorem witness_RefusedCommandChangesNothing :
    ∃ t r, (presented 0x1041 5 (live8 .unsigned .wrap 7)).host = .command 0x1041 5 :: [] ∧
      step (presented 0x1041 5 (live8 .unsigned .wrap 7)) = .next t ∧ t.rsp = some r ∧ r.status ≠ .ok :=
  ⟨_, _, by decide, rfl, rfl, by decide⟩

/-- A refused and a performed command, and one of each kind of result. -/
theorem witness_ResponseCarriesTheResult :
    (presented 0x5040 5 State.reset).host = .command 0x5040 5 :: [] ∧
      answer (presented 0x5040 5 State.reset) = some (.ok, 0, 18446744073709551615) ∧
      answer (presented 0x5081 5 State.reset) = some (.ok, 0, 1) ∧
      answer (presented 0x2001 5 State.reset) = some (.ok, 0, 0) ∧
      answer (presented 0x2000 5 State.reset) = some (.badBits, 0, 0) := by decide

theorem witness_ConsConstructsAnInstance :
    (1 ≤ 1 ∧ 1 ≤ 64) ∧ (1 ≤ 64 ∧ 64 ≤ 64) ∧ (0 = 0 ∨ 65 ≤ 0) ∧ (65 = 0 ∨ 65 ≤ 65) ∧ 127 ≤ 127 ∧
      (opField 0x1008 = 1 ∧ rsvField 0x1008 = 0) ∧ (opField 0x1208 = 1 ∧ rsvField 0x1208 ≠ 0) := by decide

theorem witness_ConszConstructsFromZero :
    (1 ≤ 1 ∧ 1 ≤ 64) ∧ (1 ≤ 64 ∧ 64 ≤ 64) ∧ 127 ≤ 127 ∧
      (opField 0x2008 = 2 ∧ rsvField 0x2008 = 0) ∧ (opField 0x2208 = 2 ∧ rsvField 0x2208 ≠ 0) := by decide

/-- `VAL` at the top of its range (live8 Clamp), and no instance. -/
theorem witness_SetStoresTheBoundedOperand :
    (live8 .unsigned .clamp 255).Consistent ∧ (live8 .unsigned .clamp 255).constructed = true ∧
      State.reset.constructed = false ∧ opField 0x3000 = 3 ∧ opField 0x3001 = 3 := by decide

theorem witness_GetRenormalizesTheValue :
    (live8 .signed .clamp 128).Consistent ∧ (live8 .signed .clamp 128).constructed = true ∧
      State.reset.constructed = false ∧ opField 0x4000 = 4 ∧ opField 0x4001 = 4 := by decide

theorem witness_UrangeAnswersTheUnsignedRange :
    (1 ≤ 1 ∧ 1 ≤ 64) ∧ (1 ≤ 64 ∧ 64 ≤ 64) ∧ (0 = 0 ∨ 65 ≤ 0) ∧ (65 = 0 ∨ 65 ≤ 65) ∧ 127 ≤ 127 ∧
      (opField 0x5008 = 5 ∧ sgnField 0x5008 = false) ∧
      (opField 0x5108 = 5 ∧ sgnField 0x5108 = false ∧ polField 0x5108 = true) := by decide

theorem witness_SrangeAnswersTheSignedRange :
    (1 ≤ 1 ∧ 1 ≤ 64) ∧ (1 ≤ 64 ∧ 64 ≤ 64) ∧ (0 = 0 ∨ 65 ≤ 0) ∧ (65 = 0 ∨ 65 ≤ 65) ∧ 127 ≤ 127 ∧
      (opField 0x5088 = 5 ∧ sgnField 0x5088 = true) ∧
      (opField 0x5188 = 5 ∧ sgnField 0x5188 = true ∧ polField 0x5188 = true) := by decide

/-- The bit-widths of the arithmetic statements (RangeClosedForms, FamilyBitIsRedundant,
NormalizeStaysInRange, WrapLaws, UnsignedClampLaws). -/
theorem witness_legal_widths : (1 ≤ 1 ∧ 1 ≤ 64) ∧ (1 ≤ 64 ∧ 64 ≤ 64) := by decide

theorem witness_SignedClampLaws :
    (2 ≤ 2 ∧ 2 ≤ 64) ∧ (2 ≤ 64 ∧ 64 ≤ 64) ∧ (rangeFromBits 8 .signed).lo = -127 ∧
      (rangeFromBits 8 .signed).hi = 128 ∧ (128 : Int) < 200 ∧ (200 : Int) < 255 := by decide

theorem witness_ClampFormsByCases :
    (0 : Int) ≤ 255 ∧ (-127 : Int) < 128 ∧ (-127 : Int) < 0 ∧ (3 : Int) < 9 := by decide

theorem witness_RemainderConventionDoesNotMatter :
    (∀ a n : Int, 1 ≤ n → n ∣ Int.emod a n - a ∧ |Int.emod a n| < n) ∧ (1 : Int) ≤ 255 ∧
      (1 : Int) ≤ 128 - (-127) := by
  refine ⟨fun a n h => ⟨?_, ?_⟩, by decide, by decide⟩
  · have h' := Int.emod_add_mul_ediv a n
    exact ⟨-(a / n), by change a % n - a = _; linarith⟩
  · have h1 := Int.emod_nonneg a (show n ≠ 0 by omega)
    have h2 := Int.emod_lt_of_pos a (show 0 < n by omega)
    change |a % n| < n
    rw [abs_of_nonneg h1]
    exact h2

/-- The instances of each case of R98: Wrap at the greatest value it can hold, unsigned Clamp at `hi`,
and the four kinds of value of a signed Clamp instance. -/
theorem witness_EffectOfRepeatedGets :
    ((live8 .signed .wrap 127).Consistent ∧ ¬ (live8 .signed .wrap 127).SignedClamp) ∧
      (live8 .signed .wrap 127).constructed = true := by decide

theorem witness_EffectOfRepeatedGets_unsigned_clamp :
    ((live8 .unsigned .clamp 255).Consistent ∧ ¬ (live8 .unsigned .clamp 255).SignedClamp) ∧
      (live8 .unsigned .clamp 255).constructed = true := by decide

theorem witness_EffectOfRepeatedGets_signed_clamp_lo :
    ((live8 .signed .clamp (-127)).Consistent ∧ (live8 .signed .clamp (-127)).SignedClamp) ∧
      (live8 .signed .clamp (-127)).constructed = true := by decide

theorem witness_EffectOfRepeatedGets_signed_clamp_zero :
    (live8 .signed .clamp 0).Consistent ∧ (live8 .signed .clamp 0).SignedClamp := by decide

theorem witness_EffectOfRepeatedGets_signed_clamp_below_hi :
    (live8 .signed .clamp 127).Consistent ∧ (live8 .signed .clamp 127).SignedClamp := by decide

theorem witness_EffectOfRepeatedGets_signed_clamp_hi :
    (live8 .signed .clamp 128).Consistent ∧ (live8 .signed .clamp 128).SignedClamp := by decide

theorem witness_WhenReadingReturnsTheWrittenValue :
    ((live8 .signed .wrap 127).Consistent ∧ ¬ (live8 .signed .wrap 127).SignedClamp) ∧
      ((live8 .signed .clamp 128).Consistent ∧ (live8 .signed .clamp 128).SignedClamp ∧
        (live8 .signed .clamp 128).constructed = true) := by decide

/-- Operands at the edges of the cases: 0, 254, 255 and, in range, -127 and 128. -/
theorem witness_SignedClampWriteStoresTheOffset :
    ((live8 .signed .clamp 128).Consistent ∧ (live8 .signed .clamp 128).SignedClamp ∧
        (live8 .signed .clamp 128).constructed = true) ∧
      (BitVec.ofInt 128 0).toInt = 0 ∧ (BitVec.ofInt 128 254).toInt < 128 - (-127) ∧
      128 - (-127) ≤ (BitVec.ofInt 128 255).toInt ∧ -127 ≤ (BitVec.ofInt 128 (-127)).toInt ∧
      (BitVec.ofInt 128 128).toInt ≤ 128 := by decide

theorem witness_WrapCannotStoreHi :
    ((live8 .signed .wrap 127).Consistent ∧ (live8 .signed .wrap 127).constructed = true ∧
        (live8 .signed .wrap 127).cfg.pol = .wrap) ∧
      (BitVec.ofInt 128 128).toInt = (live8 .signed .wrap 127).hi.toInt ∧
      (BitVec.ofInt 128 383).toInt = (BitVec.ofInt 128 128).toInt + 1 * (2 ^ 8 - 1) := by decide

theorem witness_StepKeepsConsistent :
    (presented 0x4000 5 (live8 .signed .clamp 128)).Consistent ∧
      ∃ t, step (presented 0x4000 5 (live8 .signed .clamp 128)) = .next t ∧ t.constructed = true :=
  ⟨by decide, _, rfl, by decide⟩

theorem witness_ReachableValueIsInRange :
    ∃ t, Host.Core.run Sys2Proof.core 1 (presented 0x1108 300 State.reset) = .next t ∧
      t.constructed = true :=
  ⟨_, rfl, by decide⟩

theorem witness_WhoChangesConstructed :
    constructs 0x1001 = true ∧ constructs 0x2040 = true ∧ constructs 0x1000 = false ∧
      constructs 0x1041 = false ∧ State.reset.constructed = false ∧
      ∃ t, step (presented 0x1001 5 State.reset) = .next t ∧ t.constructed = true :=
  ⟨by decide, by decide, by decide, by decide, by decide, _, rfl, by decide⟩

theorem witness_ConfigurationIsImmutable :
    ∃ t, step (presented 0x3000 5 (live8 .signed .wrap 127)) = .next t ∧
      (live8 .signed .wrap 127).constructed = true ∧
      (presented 0x3000 5 (live8 .signed .wrap 127)).host.head? ≠ some .reset ∧
      constructs 0x3000 = false :=
  ⟨_, rfl, by decide, by decide, by decide⟩

theorem witness_ConfigurationIsImmutable_refused :
    ∃ t r, step (presented 0x1041 5 (live8 .signed .wrap 127)) = .next t ∧ t.rsp = some r ∧
      r.status ≠ .ok :=
  ⟨_, _, rfl, rfl, by decide⟩

theorem witness_ReconstructionForgetsTheOldInstance :
    (live8 .signed .wrap 127).cmdData = State.reset.cmdData ∧
      (live8 .signed .wrap 127).host = State.reset.host ∧ (live8 .signed .wrap 127) ≠ State.reset ∧
      (1 ≤ 64 ∧ 64 ≤ 64) := by decide

/-- A construction refused with BadBits, and one refused with IllegalCmd. -/
theorem witness_ReconstructionForgetsTheOldInstance_refused :
    (presented 0x1041 5 (live8 .signed .wrap 127)).host = .command 0x1041 5 :: [] ∧
      (opField 0x1041 = 1 ∧ constructs 0x1041 = false) ∧
      (opField 0x2208 = 2 ∧ constructs 0x2208 = false) := by decide

/-- Two blocks after reset that hold different values in the registers of no instance. -/
theorem witness_UnconstructedRegistersAreUnobservable :
    State.LooksLike { State.reset with val := 9, hi := 3, cfg := cfgOf 8 .signed .clamp } State.reset ∧
      ({ State.reset with val := 9, hi := 3, cfg := cfgOf 8 .signed .clamp } : State) ≠ State.reset := by
  decide

/-- The operand at both ends of its bus, at the greatest width. -/
theorem witness_NormalizeFitsTheRegisters :
    (1 ≤ 64 ∧ 64 ≤ 64) ∧ (BitVec.intMin 128).toInt = -2 ^ 127 ∧
      min ((rangeFromBits 64 .signed).hi - (rangeFromBits 64 .signed).lo) (BitVec.intMin 128).toInt =
        -2 ^ 127 ∧
      min ((rangeFromBits 64 .signed).hi - (rangeFromBits 64 .signed).lo) (BitVec.intMax 128).toInt =
        2 ^ 64 - 1 := by decide

/-- The same two blocks, about to construct an instance. -/
theorem witness_StepKeepsBlocksIndistinguishable :
    State.LooksLike
        (presented 0x1188 200 { State.reset with val := 9, hi := 3, cfg := cfgOf 8 .signed .clamp })
        (presented 0x1188 200 State.reset) ∧
      answer (presented 0x1188 200 State.reset) = some (.ok, 73, 0) := by decide

theorem witness_UnusedOperandIsIgnored :
    decode 0x4000 = .ok .get ∧ decode 0x2001 = .ok (.consz .wrap .unsigned 1) ∧
      decode 0x5040 = .ok (.urange 64) ∧ decode 0x50C1 = .ok (.srange 65) := by decide

theorem witness_RepeatingACommandChangesNothing :
    Instr.set ≠ .get ∧ ∃ t, exec .set (live8 .signed .clamp 128) = .next t ∧ t.val.toInt = -127 :=
  ⟨by decide, _, rfl, by decide⟩

theorem witness_ResetEndsTheInstance :
    ({ live8 .signed .clamp 128 with host := [.reset] } : State).host = .reset :: [] := by decide

theorem witness_IdleStepChangesNothing : (live8 .signed .clamp 128).host = [] := by decide

theorem witness_HandshakeCarriesTheTransaction :
    Block.reset.flight = none ∧ (⟨false, true, 0x5008, 0⟩ : PinsIn).rst = false ∧
      (⟨false, true, 0x5008, 0⟩ : PinsIn).cmdValid = true := by decide

theorem witness_PortResetDropsTheCommand :
    (⟨true, true, 0x5008, 0⟩ : PinsIn).rst = true ∧
      ({ Block.reset with flight := some ⟨3, ⟨.ok, 0, 0⟩⟩ } : Block).flight.isSome = true := by decide

theorem witness_CommandWhileBusyFaults :
    ({ Block.reset with flight := some ⟨1, ⟨.ok, 0, 0⟩⟩ } : Block).flight = some ⟨1, ⟨.ok, 0, 0⟩⟩ ∧
      (⟨false, true, 0x5008, 0⟩ : PinsIn).cmdValid = true := by decide

theorem witness_ConstructionCopiesTheConfigurationField :
    (presented 0x11C0 5 State.reset).host = .command 0x11C0 5 :: [] ∧ constructs 0x11C0 = true ∧
      constructs 0x1001 = true := by decide

theorem witness_DisplayPerformsAGet :
    (live8 .signed .clamp 128).constructed = true ∧
      variantOfCfg (live8 .signed .clamp 128).cfg = some ⟨"Int8Clamped", 8, .signed, .clamp⟩ := by decide

end Sys2Proof.Tests
end

/-! # The registers: the invariant, its frame, and what a host can observe of them

Proofs of the statements on 10_state.md. First the arithmetic of a range, then what each shared
operation does to the registers, then what a step does to them, then the statements. -/

section
/-! ## A derived range and the bounded image (40_range_derivation.md, 41_normalize_core.md) -/

namespace Sys2Proof.Machine

/-- `range_from_bits` is given by the closed forms (R66). -/
theorem rangeFromBits_eq {b : Nat} (h : bitsLegal b = true) (g : Family) :
    rangeFromBits b g = ⟨lowerBound b g, upperBound b g⟩ := by
  cases g with
  | unsigned => rfl
  | signed =>
    have hpow := two_pow_pred ((bitsLegal_iff b).1 h).1
    have hfloor : floorHalf (2 ^ b - 1) = 2 ^ (b - 1) - 1 := by
      rw [floorHalf, Int.fdiv_eq_ediv_of_nonneg _ (by norm_num)]; omega
    have hceil : ceilHalf (2 ^ b - 1) = 2 ^ (b - 1) := by
      rw [ceilHalf, Int.fdiv_eq_ediv_of_nonneg _ (by norm_num)]; omega
    simp only [rangeFromBits, signedRange, lowerBound, upperBound, hfloor, hceil]

theorem lowerBound_lt_upperBound {b : Nat} (h : bitsLegal b = true) (g : Family) :
    lowerBound b g < upperBound b g := by
  have hpow := two_pow_pred ((bitsLegal_iff b).1 h).1
  have hbounds := two_pow_bounds h
  cases g <;> simp only [lowerBound, upperBound] <;> omega

/-- Every member of a legal range fits 65 signed bits (R87). -/
theorem range_fits_65_bits {b : Nat} (h : bitsLegal b = true) (g : Family) :
    -2 ^ 64 ≤ lowerBound b g ∧ upperBound b g < 2 ^ 64 := by
  have hpow := two_pow_pred ((bitsLegal_iff b).1 h).1
  have hbounds := two_pow_bounds h
  cases g <;> simp only [lowerBound, upperBound] <;> omega

@[simp] theorem lowerBound_unsigned (b : Nat) : lowerBound b .unsigned = 0 := rfl

/-- The truncated remainder with its correction is the non-negative remainder (R75). -/
theorem correctRemainder_tmod (a : Int) {n : Int} (hn : 0 < n) :
    correctRemainder (tmod a n) n = a % n := by
  have hnonneg := Int.emod_nonneg a hn.ne'
  have hlt := Int.emod_lt_of_pos a hn
  rw [tmod_eq, Int.tmod_eq_emod, correctRemainder]
  split_ifs <;> omega

/-- One expression gives normalize for both families, since an unsigned range begins at 0 (R82). -/
theorem normalizeRaw_eq_boundedImage (raw : Int) {lo hi : Int} {g : Family} (p : Policy)
    (hlt : lo < hi) (hzero : g = .unsigned → lo = 0) :
    normalizeRaw raw lo hi g p = boundedImage raw lo hi p := by
  have hwidth : 0 < hi - lo := by omega
  cases g with
  | signed =>
    cases p with
    | clamp => rfl
    | wrap =>
      simp only [normalizeRaw, modularWrapper, wrapSigned, boundedImage,
        correctRemainder_tmod _ hwidth]
      omega
  | unsigned =>
    obtain rfl := hzero rfl
    cases p with
    | clamp => simp [normalizeRaw, rangeClampSaturator, clampUnsigned, boundedImage]
    | wrap =>
      simp [normalizeRaw, modularWrapper, wrapUnsigned, boundedImage, correctRemainder_tmod _ hlt]

/-- The bounded image is in the range, and below `hi` under Wrap (R83). -/
theorem boundedImage_mem (raw : Int) {lo hi : Int} (p : Policy) (hlt : lo < hi) :
    lo ≤ boundedImage raw lo hi p ∧ boundedImage raw lo hi p ≤ hi ∧
      (p = .wrap → boundedImage raw lo hi p < hi) := by
  cases p with
  | clamp =>
    simp only [boundedImage]
    exact ⟨by omega, by omega, nofun⟩
  | wrap =>
    have hnonneg := Int.emod_nonneg (raw - lo) (show hi - lo ≠ 0 by omega)
    have hmod := Int.emod_lt_of_pos (raw - lo) (show 0 < hi - lo by omega)
    simp only [boundedImage]
    omega

end Sys2Proof.Machine
end

section
/-! ## What the shared operations do to the registers -/

namespace Sys2Proof.Machine

@[simp] theorem sint65_eq_toInt (v : ValWord) : sint65 v = v.toInt := rfl

theorem accept_sameRegisters (d : RawBus) (rest : List HostEvent) (s : State) :
    (accept d rest s).SameRegisters s := ⟨rfl, rfl, rfl, rfl, rfl⟩

theorem idle_sameRegisters (s : State) : (idle s).SameRegisters s := ⟨rfl, rfl, rfl, rfl, rfl⟩

theorem respond_sameRegisters (st : Status) (d0 d1 : Int) (s : State) :
    (respond st d0 d1 s).SameRegisters s := ⟨rfl, rfl, rfl, rfl, rfl⟩

theorem raiseRefusal_sameRegisters (st : Status) (s : State) :
    (raiseRefusal st s).SameRegisters s := respond_sameRegisters st 0 0 s

theorem queryRange_sameRegisters (b : Nat) (g : Family) (s : State) :
    (queryRange b g s).SameRegisters s := by
  cases h : bitsLegal b with
  | true => rw [queryRange_of_legal h]; exact respond_sameRegisters ..
  | false => rw [queryRange_of_not_legal h]; exact raiseRefusal_sameRegisters ..

/-- The invariant speaks of the registers alone. -/
theorem consistent_of_sameRegisters {s t : State} (h : t.SameRegisters s) (hs : s.Consistent) :
    t.Consistent := by
  obtain ⟨hconstructed, hcfg, hlo, hhi, hval⟩ := h
  unfold State.Consistent State.ValueInRange
  rw [hconstructed, hcfg, hlo, hhi, hval]
  exact hs

theorem consistent_of_not_constructed {s : State} (h : s.constructed = false) : s.Consistent :=
  fun hc => absurd hc (by simp [h])

/-- The bit-width is legal (R12) and the bounds are the range of `CFG` (R13): the part of the
invariant that a construction establishes before it writes `VAL`. -/
def State.Configured (s : State) : Prop :=
  bitsLegal s.cfg.bits.toNat = true ∧ s.lo.toInt = lowerBound s.cfg.bits.toNat s.cfg.sgn ∧
    s.hi.toInt = upperBound s.cfg.bits.toNat s.cfg.sgn

theorem consistent_iff {s : State} :
    s.Consistent ↔ (s.constructed = true → s.Configured ∧ s.ValueInRange) := by
  simp only [State.Consistent, State.Configured, bitsLegal_iff, and_assoc]

theorem configure_configured {b : Nat} (h : bitsLegal b = true) (g : Family) (p : Policy)
    (s : State) : (configure b g p (rangeFromBits b g) s).Configured := by
  obtain ⟨hlo, hhi⟩ := range_fits_65_bits h g
  have hlt := lowerBound_lt_upperBound h g
  simp only [State.Configured, configure_cfg, configure_lo, configure_hi, cfgOf_bits_toNat h,
    cfgOf_sgn, rangeFromBits_eq h]
  exact ⟨h, enc65_toInt hlo (by omega), enc65_toInt (by omega) hhi⟩

/-- What SET and GET do with a raw value: its bounded image in the range of `CFG` (R82). -/
theorem normalizeHere_eq_boundedIn {s : State} (h : s.Configured) (raw : Int) :
    normalizeHere raw s = boundedIn raw s.cfg.bits.toNat s.cfg.sgn s.cfg.pol := by
  obtain ⟨hbits, hlo, hhi⟩ := h
  rw [normalizeHere, sint65_eq_toInt, sint65_eq_toInt, hlo, hhi]
  exact normalizeRaw_eq_boundedImage raw _ (lowerBound_lt_upperBound hbits _)
    (fun hg => by simp [hg])

/-- The bounded image in a legal range is read back from `VAL` (R87). -/
theorem enc65_boundedIn_toInt (raw : Int) {b : Nat} (h : bitsLegal b = true) (g : Family)
    (p : Policy) : (enc65 (boundedIn raw b g p)).toInt = boundedIn raw b g p := by
  obtain ⟨hlo, hhi⟩ := range_fits_65_bits h g
  obtain ⟨hge, hle, -⟩ := boundedImage_mem raw p (lowerBound_lt_upperBound h g)
  exact enc65_toInt (hlo.trans hge) (hle.trans_lt hhi)

/-- R91: a construction configures the block, then stores its operand as SET does. -/
theorem construct_eq_accessValue_configure {b : Nat} (h : bitsLegal b = true) (g : Family)
    (p : Policy) (raw : Int) (s : State) :
    construct b g p raw s = accessValue raw (configure b g p (rangeFromBits b g) s) := by
  have hraw : normalizeRaw raw (rangeFromBits b g).lo (rangeFromBits b g).hi g p =
      normalizeHere raw (configure b g p (rangeFromBits b g) s) := by
    rw [normalizeHere_eq_boundedIn (configure_configured h g p s), configure_cfg,
      cfgOf_bits_toNat h, cfgOf_sgn, cfgOf_pol, rangeFromBits_eq h]
    exact normalizeRaw_eq_boundedImage raw p (lowerBound_lt_upperBound h g)
      (fun hg => by simp [hg])
  rw [construct_of_legal h, hraw, accessValue_of_constructed (configure_constructed ..)]

end Sys2Proof.Machine
end

section
/-! ## The invariant of the registers -/

namespace Sys2Proof.Machine

/-- Storing a value through normalize establishes the invariant; the old `VAL` does not matter. -/
theorem accessValue_consistent {s : State} (h : s.constructed = true → s.Configured) (raw : Int) :
    (accessValue raw s).Consistent := by
  cases hc : s.constructed with
  | false =>
    rw [accessValue_of_not_constructed hc]
    exact consistent_of_not_constructed hc
  | true =>
    have hconf := h hc
    have ⟨hbits, hlo, hhi⟩ := hconf
    rw [accessValue_of_constructed hc, normalizeHere_eq_boundedIn hconf, consistent_iff]
    refine fun _ => ⟨hconf, ?_⟩
    simp only [State.ValueInRange, commitValue_lo, commitValue_hi, commitValue_val, commitValue_cfg,
      enc65_boundedIn_toInt raw hbits, hlo, hhi]
    exact boundedImage_mem raw s.cfg.pol (lowerBound_lt_upperBound hbits _)

theorem construct_consistent {s : State} (hs : s.Consistent) (b : Nat) (g : Family) (p : Policy)
    (raw : Int) : (construct b g p raw s).Consistent := by
  cases h : bitsLegal b with
  | true =>
    rw [construct_eq_accessValue_configure h]
    exact accessValue_consistent (fun _ => configure_configured h g p s) raw
  | false =>
    rw [construct_of_not_legal h]
    exact consistent_of_sameRegisters (raiseRefusal_sameRegisters ..) hs

theorem exec_keeps_consistent {i : Instr} {s t : State} (hs : s.Consistent)
    (h : exec i s = .next t) : t.Consistent := by
  obtain ⟨b, g, p, raw, he⟩ | ⟨raw, he⟩ | ⟨b, g, he⟩ := exec_cases i s <;>
    obtain rfl := Host.Outcome.next.inj (he.symm.trans h)
  · exact construct_consistent hs b g p raw
  · exact accessValue_consistent (fun hc => (consistent_iff.1 hs hc).1) raw
  · exact consistent_of_sameRegisters (queryRange_sameRegisters ..) hs

/-- Settles O34: every kind of step keeps the invariant. -/
theorem stepKeepsConsistent : Obligations.StepKeepsConsistent := by
  intro s t hs h
  obtain ⟨-, rfl⟩ | ⟨rest, -, rfl⟩ | ⟨w, d, rest, r, -, -, rfl⟩ | ⟨w, d, rest, i, -, -, he⟩ :=
    step_cases h
  · exact consistent_of_sameRegisters (idle_sameRegisters s) hs
  · exact consistent_of_not_constructed (resetBlock_constructed rest)
  · exact consistent_of_sameRegisters (raiseRefusal_sameRegisters ..)
      (consistent_of_sameRegisters (accept_sameRegisters d rest s) hs)
  · exact exec_keeps_consistent (consistent_of_sameRegisters (accept_sameRegisters d rest s) hs) he

/-- Settles O33: `CONSTRUCTED` is 0 after reset, and the invariant asks nothing then. -/
theorem consistentAfterReset : Obligations.ConsistentAfterReset :=
  fun _ => consistent_of_not_constructed rfl

/-- What every step keeps, every run keeps. -/
theorem run_keeps {P : State → Prop} (hstep : ∀ s t, P s → step s = .next t → P t) {n : Nat}
    {s t : State} (hs : P s) (h : Host.Core.run Sys2Proof.core n s = .next t) : P t := by
  induction n generalizing s with
  | zero => exact Host.Outcome.next.inj h ▸ hs
  | succ n ih =>
    simp only [Host.Core.run] at h
    split at h
    · next s' hs' => exact ih (hstep s s' hs hs') h
    all_goals cases h

/-- Settles O35: the invariant holds after reset (O33) and every step keeps it (O34). -/
theorem reachableValueIsInRange : Obligations.ReachableValueIsInRange := by
  intro es n t h hc
  have ht : t.Consistent := run_keeps stepKeepsConsistent (consistentAfterReset es) h
  exact (consistent_iff.1 ht hc).2

end Sys2Proof.Machine
end

section
/-! ## What a step does to the registers, by the word it serves -/

namespace Sys2Proof.Machine

theorem step_of_decode_ok {s : State} {w : CmdWord} {d : RawBus} {rest : List HostEvent} {i : Instr}
    (hs : s.host = .command w d :: rest) (hd : decode w = .ok i) :
    step s = exec i (accept d rest s) := by
  simp [step, demand, hs, hd]

theorem step_of_decode_error {s : State} {w : CmdWord} {d : RawBus} {rest : List HostEvent}
    {r : DecodeReject} (hs : s.host = .command w d :: rest) (hd : decode w = .error r) :
    step s = .next (raiseRefusal .illegalCmd (accept d rest s)) := by
  simp [step, demand, hs, hd]

theorem step_of_no_event {s : State} (hs : s.host = []) : step s = .next (idle s) := by
  simp [step, demand, hs]

theorem step_of_reset {s : State} {rest : List HostEvent} (hs : s.host = .reset :: rest) :
    step s = .next (resetBlock rest) := by
  simp [step, demand, hs]

theorem decodePlain_eq_ok {w : CmdWord} {i j : Instr} (h : decodePlain w i = .ok j) : j = i := by
  unfold decodePlain at h
  split at h
  · cases h
  · exact (Except.ok.inj h).symm

theorem decodeRange_eq_ok {w : CmdWord} {j : Instr} (h : decodeRange w = .ok j) :
    j = .srange (bitsField w) ∨ j = .urange (bitsField w) := by
  unfold decodeRange at h
  split_ifs at h
  · exact .inl (Except.ok.inj h).symm
  · exact .inr (Except.ok.inj h).symm

/-- A word decodes to a command whose numbers are the word's own fields (R41, R44). -/
theorem decode_cases {w : CmdWord} {i : Instr} (h : decode w = .ok i) :
    i = .cons (policyOfBit (polField w)) (familyOfBit (sgnField w)) (bitsField w) ∨
    i = .consz (policyOfBit (polField w)) (familyOfBit (sgnField w)) (bitsField w) ∨
    i = .set ∨ i = .get ∨ i = .srange (bitsField w) ∨ i = .urange (bitsField w) := by
  unfold decode at h
  split_ifs at h
  split at h
  · exact .inl (Except.ok.inj h).symm
  · exact .inr (.inl (Except.ok.inj h).symm)
  · exact .inr (.inr (.inl (decodePlain_eq_ok h)))
  · exact .inr (.inr (.inr (.inl (decodePlain_eq_ok h))))
  · exact .inr (.inr (.inr (.inr (decodeRange_eq_ok h))))
  · cases h

/-- A word that decodes to a construction decodes to the one its fields spell. -/
theorem fields_of_decode_construction {w : CmdWord} {p : Policy} {g : Family} {b : Nat}
    (h : decode w = .ok (.cons p g b) ∨ decode w = .ok (.consz p g b)) :
    p = policyOfBit (polField w) ∧ g = familyOfBit (sgnField w) ∧ b = bitsField w := by
  rcases h with h | h
  · simpa using decode_cases h
  · simpa using decode_cases h

theorem constructs_iff (w : CmdWord) :
    constructs w = true ↔ ∃ p g b, (decode w = .ok (.cons p g b) ∨ decode w = .ok (.consz p g b)) ∧
      bitsLegal b = true := by
  unfold constructs
  cases hd : decode w with
  | error r => simp
  | ok i => cases i <;> simp [bitsLegal_iff]

theorem not_constructs_of_decode_error {w : CmdWord} {r : DecodeReject} (h : decode w = .error r) :
    constructs w = false := by
  simp [constructs, h]

/-- A word that constructs runs `construct` with its own fields and a legal bit-width (R91, R92). -/
theorem exec_of_constructs {w : CmdWord} {i : Instr} (hc : constructs w = true)
    (hd : decode w = .ok i) (s : State) :
    bitsLegal (bitsField w) = true ∧ ∃ raw, exec i s = .next (construct (bitsField w)
      (familyOfBit (sgnField w)) (policyOfBit (polField w)) raw s) := by
  obtain ⟨p, g, b, hcons, hb⟩ := (constructs_iff w).1 hc
  obtain ⟨rfl, rfl, rfl⟩ := fields_of_decode_construction hcons
  refine ⟨hb, ?_⟩
  rcases hcons with hcons | hcons <;> obtain rfl := Except.ok.inj (hd.symm.trans hcons)
  · exact ⟨dataOperand s, rfl⟩
  · exact ⟨0, rfl⟩

/-- `CONSTRUCTED`, `CFG`, `LO` and `HI` are the same in both states; `VAL` may differ. -/
def State.SameConfiguration (t s : State) : Prop :=
  t.constructed = s.constructed ∧ t.cfg = s.cfg ∧ t.lo = s.lo ∧ t.hi = s.hi

/-- The registers are the same in both states, if `t` carries a refusal. -/
def State.RefusalKeepsRegisters (t s : State) : Prop :=
  ∀ r, t.rsp = some r → r.status ≠ .ok → t.SameRegisters s

theorem State.SameRegisters.sameConfiguration {t s : State} (h : t.SameRegisters s) :
    t.SameConfiguration s := by
  obtain ⟨hconstructed, hcfg, hlo, hhi, -⟩ := h
  exact ⟨hconstructed, hcfg, hlo, hhi⟩

theorem accessValue_sameConfiguration (raw : Int) (s : State) :
    (accessValue raw s).SameConfiguration s := by
  cases hc : s.constructed with
  | true => rw [accessValue_of_constructed hc]; exact ⟨rfl, rfl, rfl, rfl⟩
  | false =>
    rw [accessValue_of_not_constructed hc]
    exact (raiseRefusal_sameRegisters ..).sameConfiguration

theorem accessValue_refusalKeepsRegisters (raw : Int) (s : State) :
    (accessValue raw s).RefusalKeepsRegisters s := by
  intro r hr hne
  cases hc : s.constructed with
  | true =>
    rw [accessValue_of_constructed hc, commitValue_rsp] at hr
    obtain rfl := Option.some.inj hr
    exact absurd rfl hne
  | false => rw [accessValue_of_not_constructed hc]; exact raiseRefusal_sameRegisters ..

theorem construct_constructed {b : Nat} (h : bitsLegal b = true) (g : Family) (p : Policy) (raw : Int)
    (s : State) : (construct b g p raw s).constructed = true := by
  rw [construct_of_legal h, commitValue_constructed, configure_constructed]

theorem construct_cfg {b : Nat} (h : bitsLegal b = true) (g : Family) (p : Policy) (raw : Int)
    (s : State) : (construct b g p raw s).cfg = cfgOf b g p := by
  rw [construct_of_legal h, commitValue_cfg, configure_cfg]

theorem construct_refusalKeepsRegisters (b : Nat) (g : Family) (p : Policy) (raw : Int) (s : State) :
    (construct b g p raw s).RefusalKeepsRegisters s := by
  intro r hr hne
  cases h : bitsLegal b with
  | true =>
    rw [construct_of_legal h, commitValue_rsp] at hr
    obtain rfl := Option.some.inj hr
    exact absurd rfl hne
  | false => rw [construct_of_not_legal h]; exact raiseRefusal_sameRegisters ..

/-- What a command does whose word does not construct: CONS and CONSZ have a bad bit-width. -/
theorem exec_cases_of_not_constructs {w : CmdWord} {i : Instr} (hc : constructs w = false)
    (hd : decode w = .ok i) (s : State) :
    exec i s = .next (raiseRefusal .badBits s) ∨
    (∃ raw, exec i s = .next (accessValue raw s)) ∨
    (∃ b g, exec i s = .next (queryRange b g s)) := by
  have hrefused : ∀ p g b raw, (i = .cons p g b ∨ i = .consz p g b) →
      construct b g p raw s = raiseRefusal .badBits s := by
    intro p g b raw hi
    refine construct_of_not_legal (Bool.eq_false_iff.2 fun hb => ?_) g p raw s
    exact absurd ((constructs_iff w).2 ⟨p, g, b, by simpa [hd] using hi, hb⟩) (by simp [hc])
  cases i with
  | cons p g b => exact .inl (congrArg _ (hrefused p g b _ (.inl rfl)))
  | consz p g b => exact .inl (congrArg _ (hrefused p g b _ (.inr rfl)))
  | set => exact .inr (.inl ⟨dataOperand s, rfl⟩)
  | get => exact .inr (.inl ⟨sint65 s.val, rfl⟩)
  | urange b => exact .inr (.inr ⟨b, .unsigned, rfl⟩)
  | srange b => exact .inr (.inr ⟨b, .signed, rfl⟩)

/-- A command whose word does not construct leaves the configuration (R17). -/
theorem exec_sameConfiguration {w : CmdWord} {i : Instr} {s t : State} (hc : constructs w = false)
    (hd : decode w = .ok i) (h : exec i s = .next t) : t.SameConfiguration s := by
  obtain he | ⟨raw, he⟩ | ⟨b, g, he⟩ := exec_cases_of_not_constructs hc hd s <;>
    obtain rfl := Host.Outcome.next.inj (he.symm.trans h)
  · exact (raiseRefusal_sameRegisters ..).sameConfiguration
  · exact accessValue_sameConfiguration raw s
  · exact (queryRange_sameRegisters b g s).sameConfiguration

theorem exec_refusalKeepsRegisters {i : Instr} {s t : State} (h : exec i s = .next t) :
    t.RefusalKeepsRegisters s := by
  obtain ⟨b, g, p, raw, he⟩ | ⟨raw, he⟩ | ⟨b, g, he⟩ := exec_cases i s <;>
    obtain rfl := Host.Outcome.next.inj (he.symm.trans h)
  · exact construct_refusalKeepsRegisters b g p raw s
  · exact accessValue_refusalKeepsRegisters raw s
  · exact fun _ _ _ => queryRange_sameRegisters b g s

/-- The three things a step can do to the configuration: end it by reset, write it with the fields of
a constructing word, or leave it. -/
theorem step_configuration_cases {s t : State} (h : step s = .next t) :
    (s.host.head? = some .reset ∧ t.constructed = false) ∨
    (∃ w d rest raw, s.host = .command w d :: rest ∧ constructs w = true ∧
      bitsLegal (bitsField w) = true ∧ t = construct (bitsField w) (familyOfBit (sgnField w))
        (policyOfBit (polField w)) raw (accept d rest s)) ∨
    (s.host.head? ≠ some .reset ∧
      (∀ w d rest, s.host = .command w d :: rest → constructs w = false) ∧
      t.SameConfiguration s) := by
  obtain ⟨hs, rfl⟩ | ⟨rest, hs, rfl⟩ | ⟨w, d, rest, r, hs, hd, rfl⟩ | ⟨w, d, rest, i, hs, hd, he⟩ :=
    step_cases h
  · exact .inr (.inr ⟨by simp [hs], by simp [hs], (idle_sameRegisters s).sameConfiguration⟩)
  · exact .inl ⟨by simp [hs], rfl⟩
  · have hc := not_constructs_of_decode_error hd
    exact .inr (.inr ⟨by simp [hs], by simp [hs, hc], ⟨rfl, rfl, rfl, rfl⟩⟩)
  · cases hc : constructs w with
    | true =>
      obtain ⟨hb, raw, hexec⟩ := exec_of_constructs hc hd (accept d rest s)
      obtain rfl := Host.Outcome.next.inj (he.symm.trans hexec)
      exact .inr (.inl ⟨w, d, rest, raw, hs, hc, hb, rfl⟩)
    | false =>
      have hsame := exec_sameConfiguration hc hd he
      exact .inr (.inr ⟨by simp [hs], by simp [hs, hc], hsame⟩)

/-- Settles O36: by what the step does to the configuration. -/
theorem whoChangesConstructed : Obligations.WhoChangesConstructed := by
  refine ⟨fun s t h => ?_, fun s hc i hi => ?_⟩
  · obtain ⟨hreset, hend⟩ | ⟨w, d, rest, raw, hs, hc, hb, rfl⟩ | ⟨hreset, hword, hsame, -⟩ :=
      step_configuration_cases h
    · have hcommand : ∀ w d rest, s.host ≠ .command w d :: rest := by
        intro w d rest hs
        simp [hs] at hreset
      simp [hend, hreset, hcommand]
    · exact iff_of_true (construct_constructed hb ..) (.inl ⟨w, d, rest, hs, hc⟩)
    · rw [hsame]
      refine ⟨fun hc => .inr ⟨hc, hreset⟩, ?_⟩
      rintro (⟨w, d, rest, hs, hc⟩ | ⟨hc, -⟩)
      · exact absurd hc (by simp [hword w d rest hs])
      · exact hc
  · obtain ⟨raw, he⟩ : ∃ raw, exec i s = .next (accessValue raw s) := by
      simp only [List.mem_cons, List.not_mem_nil, or_false] at hi
      rcases hi with rfl | rfl
      · exact ⟨dataOperand s, rfl⟩
      · exact ⟨sint65 s.val, rfl⟩
    rw [accessValue_of_not_constructed hc] at he
    exact ⟨_, _, he, rfl, rfl⟩

/-- Settles O37: of the three things a step can do to the configuration the hypotheses leave one; and
no refusal writes a register. -/
theorem configurationIsImmutable : Obligations.ConfigurationIsImmutable := by
  refine ⟨fun s t h hc hreset hword => ?_, fun s t r h hr hne => ?_⟩
  · obtain ⟨hreset', -⟩ | ⟨w, d, rest, raw, hs, hc', -⟩ | ⟨-, -, hsame, hrest⟩ :=
      step_configuration_cases h
    · exact absurd hreset' hreset
    · exact absurd hc' (by simp [hword w d rest hs])
    · exact ⟨hsame.trans hc, hrest⟩
  · obtain ⟨-, rfl⟩ | ⟨rest, -, rfl⟩ | ⟨w, d, rest, r', -, -, rfl⟩ | ⟨w, d, rest, i, -, -, he⟩ :=
      step_cases h
    · exact idle_sameRegisters s
    · simp at hr
    · exact raiseRefusal_sameRegisters ..
    · have hkeeps := exec_refusalKeepsRegisters he
      exact hkeeps r hr hne

/-- A field of one bit is that bit. -/
theorem extractLsb'_one (w : CmdWord) (k : Nat) :
    w.extractLsb' k 1 = BitVec.ofBool (w.getLsbD k) := by
  refine BitVec.eq_of_getLsbD_eq fun i hi => ?_
  obtain rfl : i = 0 := by omega
  simp

/-- The low nine bits of a word are its `POL`, `SGN` and `BITS` (R12, R41). -/
theorem cfgOf_fields_word (w : CmdWord) :
    (cfgOf (bitsField w) (familyOfBit (sgnField w)) (policyOfBit (polField w))).word =
      w.extractLsb' 0 9 := by
  have hpol : BitVec.ofNat 1 (policyOfBit (polField w)).bit = w.extractLsb' 8 1 := by
    rw [extractLsb'_one, polField]
    cases w.getLsbD 8 <;> rfl
  have hsgn : BitVec.ofNat 1 (familyOfBit (sgnField w)).bit = w.extractLsb' 7 1 := by
    rw [extractLsb'_one, sgnField]
    cases w.getLsbD 7 <;> rfl
  have hlow : w.extractLsb' 7 1 ++ w.extractLsb' 0 7 = w.extractLsb' 0 8 :=
    BitVec.extractLsb'_append_extractLsb'_eq_extractLsb' (by omega)
  have hall : w.extractLsb' 8 1 ++ w.extractLsb' 0 8 = w.extractLsb' 0 9 :=
    BitVec.extractLsb'_append_extractLsb'_eq_extractLsb' (by omega)
  calc (cfgOf (bitsField w) (familyOfBit (sgnField w)) (policyOfBit (polField w))).word
      = w.extractLsb' 8 1 ++ (w.extractLsb' 7 1 ++ w.extractLsb' 0 7) := by
        simp only [Cfg.word, cfgOf, hpol, hsgn, bitsField, BitVec.ofNat_toNat, BitVec.setWidth_eq]
    _ = w.extractLsb' 0 9 := by rw [hlow, hall]

/-- Settles O49: the construction writes the fields of the word, which are its low nine bits. -/
theorem constructionCopiesTheConfigurationField :
    Obligations.ConstructionCopiesTheConfigurationField := by
  intro s w d rest hs hc
  obtain ⟨p, g, b, hd, -⟩ := (constructs_iff w).1 hc
  obtain ⟨i, hd⟩ : ∃ i, decode w = .ok i := by rcases hd with hd | hd <;> exact ⟨_, hd⟩
  obtain ⟨hb, raw, he⟩ := exec_of_constructs hc hd (accept d rest s)
  refine ⟨_, (step_of_decode_ok hs hd).trans he, ?_, ?_, construct_constructed hb ..⟩
  · rw [construct_cfg hb, cfgOf_fields_word]
  · rw [construct_cfg hb, cfgOf_bits_toNat hb]
    exact (bitsLegal_iff _).1 hb

/-- Settles O44: the step is `idle`, which writes the response port alone. -/
theorem idleStepChangesNothing : Obligations.IdleStepChangesNothing := fun s hs =>
  ⟨idle s, step_of_no_event hs, idle_sameRegisters s, idle_rsp s, hs⟩

end Sys2Proof.Machine
end

section
/-! ## What a host can observe of the registers (R22, R24) -/

namespace Sys2Proof.Machine

/-- The two states carry the same response, and no host can tell them apart. -/
def State.AnswersLike (s t : State) : Prop := s.rsp = t.rsp ∧ s.LooksLike t

theorem accept_looksLike {s t : State} (h : s.LooksLike t) (d : RawBus)
    (rest : List HostEvent) : (accept d rest s).LooksLike (accept d rest t) := by
  obtain ⟨hconstructed, -, hregs⟩ := h
  exact ⟨hconstructed, rfl, hregs⟩

theorem idle_answersLike {s t : State} (h : s.LooksLike t) :
    (idle s).AnswersLike (idle t) := ⟨rfl, h⟩

theorem respond_answersLike {s t : State} (h : s.LooksLike t) (st : Status) (d0 d1 : Int) :
    (respond st d0 d1 s).AnswersLike (respond st d0 d1 t) := ⟨rfl, h⟩

theorem raiseRefusal_answersLike {s t : State} (h : s.LooksLike t) (st : Status) :
    (raiseRefusal st s).AnswersLike (raiseRefusal st t) := respond_answersLike h st 0 0

theorem queryRange_answersLike {s t : State} (h : s.LooksLike t) (b : Nat) (g : Family) :
    (queryRange b g s).AnswersLike (queryRange b g t) := by
  cases hb : bitsLegal b with
  | true =>
    rw [queryRange_of_legal hb, queryRange_of_legal hb]
    exact respond_answersLike h ..
  | false =>
    rw [queryRange_of_not_legal hb, queryRange_of_not_legal hb]
    exact raiseRefusal_answersLike h _

/-- CONS and CONSZ overwrite every register of R10. -/
theorem construct_answersLike {s t : State} (h : s.LooksLike t) (b : Nat) (g : Family)
    (p : Policy) (raw : Int) : (construct b g p raw s).AnswersLike (construct b g p raw t) := by
  cases hb : bitsLegal b with
  | true =>
    obtain ⟨-, hhost, -⟩ := h
    rw [construct_of_legal hb, construct_of_legal hb]
    exact ⟨rfl, rfl, hhost, fun _ => ⟨rfl, rfl, rfl, rfl⟩⟩
  | false =>
    rw [construct_of_not_legal hb, construct_of_not_legal hb]
    exact raiseRefusal_answersLike h _

/-- SET and GET read the registers where `CONSTRUCTED` is 1 and are refused where it is 0. -/
theorem accessValue_answersLike {s t : State} (h : s.LooksLike t) {x y : Int}
    (hraw : s.constructed = true → x = y) : (accessValue x s).AnswersLike (accessValue y t) := by
  have ⟨hconstructed, hhost, hregs⟩ := h
  cases hc : s.constructed with
  | false =>
    rw [accessValue_of_not_constructed hc, accessValue_of_not_constructed (hconstructed ▸ hc)]
    exact raiseRefusal_answersLike h _
  | true =>
    obtain ⟨hcfg, hlo, hhi, -⟩ := hregs hc
    have hy : normalizeHere x s = normalizeHere y t := by
      rw [normalizeHere, normalizeHere, hcfg, hlo, hhi, hraw hc]
    rw [accessValue_of_constructed hc, accessValue_of_constructed (hconstructed ▸ hc), hy]
    exact ⟨rfl, hconstructed, hhost, fun _ => ⟨hcfg, hlo, hhi, rfl⟩⟩

/-- A command with one operand on both buses is answered alike. -/
theorem exec_answersLike {s t : State} (h : s.LooksLike t) (hdata : s.cmdData = t.cmdData)
    (i : Instr) : ∃ s' t', exec i s = .next s' ∧ exec i t = .next t' ∧ s'.AnswersLike t' := by
  have hoperand : dataOperand s = dataOperand t := congrArg BitVec.toInt hdata
  cases i with
  | cons p g b => exact ⟨_, _, rfl, rfl, hoperand ▸ construct_answersLike h b g p (dataOperand s)⟩
  | consz p g b => exact ⟨_, _, rfl, rfl, construct_answersLike h b g p 0⟩
  | set => exact ⟨_, _, rfl, rfl, accessValue_answersLike h fun _ => hoperand⟩
  | get =>
    have ⟨_, _, hregs⟩ := h
    refine ⟨_, _, rfl, rfl, accessValue_answersLike h fun hc => ?_⟩
    obtain ⟨-, -, -, hval⟩ := hregs hc
    rw [hval]
  | urange b => exact ⟨_, _, rfl, rfl, queryRange_answersLike h b .unsigned⟩
  | srange b => exact ⟨_, _, rfl, rfl, queryRange_answersLike h b .signed⟩

/-- Settles O51: both blocks serve the same event, and each event is answered alike. -/
theorem stepKeepsBlocksIndistinguishable : Obligations.StepKeepsBlocksIndistinguishable := by
  intro s t h
  have ⟨_, hhost, _⟩ := h
  cases hs : s.host with
  | nil => exact ⟨_, _, step_of_no_event hs, step_of_no_event (hhost ▸ hs), idle_answersLike h⟩
  | cons e rest =>
    cases e with
    | reset =>
      exact ⟨_, _, step_of_reset hs, step_of_reset (hhost ▸ hs), rfl, rfl, rfl,
        fun _ => ⟨rfl, rfl, rfl, rfl⟩⟩
    | command w d =>
      cases hd : decode w with
      | error r =>
        exact ⟨_, _, step_of_decode_error hs hd, step_of_decode_error (hhost ▸ hs) hd,
          raiseRefusal_answersLike (accept_looksLike h d rest) _⟩
      | ok i =>
        rw [step_of_decode_ok hs hd, step_of_decode_ok (hhost ▸ hs) hd]
        exact exec_answersLike (accept_looksLike h d rest) rfl i

theorem after_of_step {s t : State} (h : step s = .next t) : after s = t := by
  simp [after, h]

/-- Settles O39, by induction on the number of steps with O51 for each. -/
theorem unconstructedRegistersAreUnobservable :
    Obligations.UnconstructedRegistersAreUnobservable := by
  refine ⟨rfl, fun s t n h => ?_⟩
  induction n generalizing s t with
  | zero => rfl
  | succ n ih =>
    obtain ⟨s', t', hs, ht, hrsp, hlike⟩ := stepKeepsBlocksIndistinguishable s t h
    rw [responses, responses, after_of_step hs, after_of_step ht, hrsp, ih s' t' hlike]

end Sys2Proof.Machine
end

/-! # The order of the commands: decoding, repetition and the fold

Proofs of the statements on 20_memory.md. First a command that is repeated, then the run of a list
of events: the operations do not look at the host's later events, so each event acts as if served
alone. -/

section
/-! ## The command executed, and its repetition (R33, R37) -/

namespace Sys2Proof.Machine

/-- Settles O6: the operand bus and the host are what the acceptance of the command writes. -/
theorem stepRunsTheDecodedCommand : Obligations.StepRunsTheDecodedCommand :=
  fun _ _ _ _ _ hs hd => step_of_decode_ok hs hd

theorem dataOperand_construct (b : Nat) (g : Family) (p : Policy) (raw : Int) (s : State) :
    dataOperand (construct b g p raw s) = dataOperand s := by
  cases h : bitsLegal b with
  | true => rw [construct_of_legal h]; rfl
  | false => rw [construct_of_not_legal h]; rfl

theorem dataOperand_accessValue (raw : Int) (s : State) :
    dataOperand (accessValue raw s) = dataOperand s := by
  cases h : s.constructed with
  | true => rw [accessValue_of_constructed h]; rfl
  | false => rw [accessValue_of_not_constructed h]; rfl

/-- A construction overwrites all that it writes without reading it. -/
theorem construct_construct (b : Nat) (g : Family) (p : Policy) (raw : Int) (s : State) :
    construct b g p raw (construct b g p raw s) = construct b g p raw s := by
  cases h : bitsLegal b with
  | true => simp only [construct_of_legal h]; rfl
  | false => simp only [construct_of_not_legal h]; rfl

/-- Storing a raw value reads `CONSTRUCTED`, `CFG`, `LO` and `HI`, and writes none of them. -/
theorem accessValue_accessValue (raw : Int) (s : State) :
    accessValue raw (accessValue raw s) = accessValue raw s := by
  cases h : s.constructed with
  | true =>
    have hagain : (commitValue (normalizeHere raw s) s).constructed = true := h
    rw [accessValue_of_constructed h, accessValue_of_constructed hagain]
    rfl
  | false =>
    have hagain : (raiseRefusal .notConstructed s).constructed = false := h
    rw [accessValue_of_not_constructed h, accessValue_of_not_constructed hagain]
    rfl

theorem queryRange_queryRange (b : Nat) (g : Family) (s : State) :
    queryRange b g (queryRange b g s) = queryRange b g s := by
  cases h : bitsLegal b with
  | true => simp only [queryRange_of_legal h]; rfl
  | false => simp only [queryRange_of_not_legal h]; rfl

/-- Settles O41: each operation is idempotent for one raw value, and the raw value of every command
but GET is 0 or the operand bus, which no command writes. -/
theorem repeatingACommandChangesNothing : Obligations.RepeatingACommandChangesNothing := by
  intro i s t hget h
  cases i with
  | cons p g b =>
    obtain rfl : construct b g p (dataOperand s) s = t := Host.Outcome.next.inj h
    rw [exec, execCons, dataOperand_construct, construct_construct]
  | consz p g b =>
    obtain rfl : construct b g p 0 s = t := Host.Outcome.next.inj h
    rw [exec, execConsz, construct_construct]
  | set =>
    obtain rfl : accessValue (dataOperand s) s = t := Host.Outcome.next.inj h
    rw [exec, execSet, dataOperand_accessValue, accessValue_accessValue]
  | get => exact absurd rfl hget
  | urange b =>
    obtain rfl : queryRange b .unsigned s = t := Host.Outcome.next.inj h
    rw [exec, execUrange, queryRange_queryRange]
  | srange b =>
    obtain rfl : queryRange b .signed s = t := Host.Outcome.next.inj h
    rw [exec, execSrange, queryRange_queryRange]

end Sys2Proof.Machine
end

section
/-! ## The host's later events do not matter -/

namespace Sys2Proof.Machine

/-- The block as it is, with `es` lined up by its host. -/
def State.withHost (s : State) (es : List HostEvent) : State := { s with host := es }

@[simp] theorem withHost_rsp (s : State) (es : List HostEvent) : (s.withHost es).rsp = s.rsp := rfl

theorem construct_withHost (b : Nat) (g : Family) (p : Policy) (raw : Int) (s : State)
    (es : List HostEvent) :
    construct b g p raw (s.withHost es) = (construct b g p raw s).withHost es := by
  cases h : bitsLegal b with
  | true => simp only [construct_of_legal h]; rfl
  | false => simp only [construct_of_not_legal h]; rfl

theorem accessValue_withHost (raw : Int) (s : State) (es : List HostEvent) :
    accessValue raw (s.withHost es) = (accessValue raw s).withHost es := by
  have hsame : (s.withHost es).constructed = s.constructed := rfl
  cases h : s.constructed with
  | true => rw [accessValue_of_constructed h, accessValue_of_constructed (hsame.trans h)]; rfl
  | false =>
    rw [accessValue_of_not_constructed h, accessValue_of_not_constructed (hsame.trans h)]; rfl

theorem queryRange_withHost (b : Nat) (g : Family) (s : State) (es : List HostEvent) :
    queryRange b g (s.withHost es) = (queryRange b g s).withHost es := by
  cases h : bitsLegal b with
  | true => simp only [queryRange_of_legal h]; rfl
  | false => simp only [queryRange_of_not_legal h]; rfl

/-- A command answers the same block whatever its host has lined up. -/
theorem exec_withHost {i : Instr} {s t : State} (h : exec i s = .next t) (es : List HostEvent) :
    exec i (s.withHost es) = .next (t.withHost es) := by
  cases i <;> obtain rfl := Host.Outcome.next.inj h
  case cons p g b => exact congrArg _ (construct_withHost b g p (dataOperand s) s es)
  case consz p g b => exact congrArg _ (construct_withHost b g p 0 s es)
  case set => exact congrArg _ (accessValue_withHost (dataOperand s) s es)
  case get => exact congrArg _ (accessValue_withHost (sint65 s.val) s es)
  case urange b => exact congrArg _ (queryRange_withHost b .unsigned s es)
  case srange b => exact congrArg _ (queryRange_withHost b .signed s es)

/-- No command faults or is refused a meaning (R40, R120). -/
theorem exec_answers (i : Instr) (s : State) : ∃ t, exec i s = .next t := by
  obtain ⟨_, _, _, _, he⟩ | ⟨_, he⟩ | ⟨_, _, he⟩ := exec_cases i s <;> exact ⟨_, he⟩

/-- The step of a block with events lined up serves the first of them alone. -/
theorem step_withHost_cons (e : HostEvent) (es : List HostEvent) (s : State) :
    step (s.withHost (e :: es)) = .next ((serve e s).withHost es) := by
  cases e with
  | reset =>
    have hserve : serve .reset s = resetBlock [] := after_of_step (step_of_reset rfl)
    rw [hserve]
    exact step_of_reset rfl
  | command w d =>
    cases hd : decode w with
    | error r =>
      have hserve : serve (.command w d) s = raiseRefusal .illegalCmd (accept d [] s) :=
        after_of_step (step_of_decode_error rfl hd)
      rw [hserve]
      exact step_of_decode_error rfl hd
    | ok i =>
      obtain ⟨t, ht⟩ := exec_answers i (accept d [] s)
      have hserve : serve (.command w d) s = t :=
        after_of_step ((step_of_decode_ok rfl hd).trans ht)
      rw [hserve]
      exact (step_of_decode_ok rfl hd).trans (exec_withHost ht es)

end Sys2Proof.Machine
end

section
/-! ## One response per command -/

namespace Sys2Proof.Machine

theorem construct_rsp_isSome (b : Nat) (g : Family) (p : Policy) (raw : Int) (s : State) :
    (construct b g p raw s).rsp.isSome = true := by
  cases h : bitsLegal b with
  | true => rw [construct_of_legal h]; rfl
  | false => rw [construct_of_not_legal h]; rfl

theorem accessValue_rsp_isSome (raw : Int) (s : State) : (accessValue raw s).rsp.isSome = true := by
  cases h : s.constructed with
  | true => rw [accessValue_of_constructed h]; rfl
  | false => rw [accessValue_of_not_constructed h]; rfl

theorem queryRange_rsp_isSome (b : Nat) (g : Family) (s : State) :
    (queryRange b g s).rsp.isSome = true := by
  cases h : bitsLegal b with
  | true => rw [queryRange_of_legal h]; rfl
  | false => rw [queryRange_of_not_legal h]; rfl

theorem exec_rsp_isSome {i : Instr} {s t : State} (h : exec i s = .next t) :
    t.rsp.isSome = true := by
  obtain ⟨b, g, p, raw, he⟩ | ⟨raw, he⟩ | ⟨b, g, he⟩ := exec_cases i s <;>
    obtain rfl := Host.Outcome.next.inj (he.symm.trans h)
  · exact construct_rsp_isSome b g p raw s
  · exact accessValue_rsp_isSome raw s
  · exact queryRange_rsp_isSome b g s

/-- A command is answered and a reset is not. -/
theorem serve_rsp_isSome (e : HostEvent) (s : State) : (serve e s).rsp.isSome = e.isCommand := by
  have hstep : step (s.withHost [e]) = .next ((serve e s).withHost []) := step_withHost_cons e [] s
  rw [← withHost_rsp (serve e s) []]
  obtain ⟨hs, -⟩ | ⟨_, hs, ht⟩ | ⟨_, _, _, _, hs, -, ht⟩ | ⟨_, _, _, i, hs, -, he⟩ :=
    step_cases hstep
  · cases hs
  · cases hs; rw [ht]; rfl
  · cases hs; rw [ht]; rfl
  · cases hs; exact exec_rsp_isSome he

end Sys2Proof.Machine
end

section
/-! ## A run is the fold of the events (R35) -/

namespace Sys2Proof.Machine

theorem run_succ_of_step {s t : State} (h : step s = .next t) (n : Nat) :
    Host.Core.run Sys2Proof.core (n + 1) s = Host.Core.run Sys2Proof.core n t := by
  have hstep : Sys2Proof.core.step s = .next t := h
  simp only [Host.Core.run, hstep]

theorem run_withHost_append (es rest : List HostEvent) (s : State) :
    Host.Core.run Sys2Proof.core es.length (s.withHost (es ++ rest)) =
      .next ((serveAll es s).1.withHost rest) := by
  induction es generalizing s with
  | nil => rfl
  | cons e es ih =>
    exact (run_succ_of_step (step_withHost_cons e (es ++ rest) s) es.length).trans (ih (serve e s))

theorem responses_withHost_append (es rest : List HostEvent) (s : State) :
    responses es.length (s.withHost (es ++ rest)) = (serveAll es s).2 := by
  induction es generalizing s with
  | nil => rfl
  | cons e es ih =>
    have hafter := after_of_step (step_withHost_cons e (es ++ rest) s)
    rw [List.length_cons, List.cons_append, responses, hafter, withHost_rsp, ih (serve e s),
      serveAll]

theorem serveAll_responses_length (es : List HostEvent) (s : State) :
    (serveAll es s).2.length = es.countP HostEvent.isCommand := by
  induction es generalizing s with
  | nil => rfl
  | cons e es ih =>
    rw [serveAll, List.length_append, ih (serve e s), Option.length_toList, List.countP_cons,
      serve_rsp_isSome, Nat.add_comm]

/-- Settles O42: the state and the responses by induction on the events, and one response for each
command among them. -/
theorem runIsTheFoldOfTheEvents : Obligations.RunIsTheFoldOfTheEvents := fun es rest s =>
  ⟨run_withHost_append es rest (s.withHost []), responses_withHost_append es rest (s.withHost []),
    serveAll_responses_length es (s.withHost [])⟩

end Sys2Proof.Machine
end

/-! # The command word: encoding, decoding, the response and the port

Proofs of the statements on 30_encoding.md. First the fields of a word as numbers, which the encoder
lays out and the decoder reads; then the opcode table as intervals of words; then the response of a
command, and the handshake that carries it. -/

section
/-! ## A command word and its fields (R41, R42) -/

namespace Sys2Proof

/-- The five fields of a command word, as numbers (R41). -/
@[ext] structure CommandFields where
  op : Nat
  rsv : Nat
  pol : Nat
  sgn : Nat
  bits : Nat

/-- The fields of a word, as the decoder reads them. -/
def fieldsOf (w : CmdWord) : CommandFields :=
  ⟨opField w, (rsvField w).toNat, (polField w).toNat, (sgnField w).toNat, bitsField w⟩

/-- The fields that spell a command (R44, R45): what a command does not use is zero. -/
def Instr.fields : Instr → CommandFields
  | .cons pol sgn bits => ⟨1, 0, pol.bit, sgn.bit, bits⟩
  | .consz pol sgn bits => ⟨2, 0, pol.bit, sgn.bit, bits⟩
  | .set => ⟨3, 0, 0, 0, 0⟩
  | .get => ⟨4, 0, 0, 0, 0⟩
  | .urange bits => ⟨5, 0, 0, 0, bits⟩
  | .srange bits => ⟨5, 0, 0, 1, bits⟩

/-- Each number fits its field. -/
def CommandFields.Fits (f : CommandFields) : Prop :=
  f.op < 16 ∧ f.rsv < 8 ∧ f.pol < 2 ∧ f.sgn < 2 ∧ f.bits < 128

/-- The word in which the fields are laid out (R41), as a number. -/
def CommandFields.number (f : CommandFields) : Nat :=
  4096 * f.op + 512 * f.rsv + 256 * f.pol + 128 * f.sgn + f.bits

theorem opField_eq (w : CmdWord) : opField w = w.toNat / 4096 := by
  have := w.isLt
  simp only [opField, BitVec.extractLsb'_toNat, Nat.shiftRight_eq_div_pow]
  omega

theorem rsvField_toNat (w : CmdWord) : (rsvField w).toNat = w.toNat / 512 % 8 := by
  simp only [rsvField, BitVec.extractLsb'_toNat, Nat.shiftRight_eq_div_pow]

theorem polField_toNat (w : CmdWord) : (polField w).toNat = w.toNat / 256 % 2 :=
  Nat.toNat_testBit w.toNat 8

theorem sgnField_toNat (w : CmdWord) : (sgnField w).toNat = w.toNat / 128 % 2 :=
  Nat.toNat_testBit w.toNat 7

theorem bitsField_eq (w : CmdWord) : bitsField w = w.toNat % 128 := by
  simp only [bitsField, BitVec.extractLsb'_toNat, Nat.shiftRight_eq_div_pow]
  omega

/-- The fields of a word by division, for `omega`. -/
theorem fieldsOf_eq (w : CmdWord) : fieldsOf w = ⟨w.toNat / 4096, w.toNat / 512 % 8,
    w.toNat / 256 % 2, w.toNat / 128 % 2, w.toNat % 128⟩ := by
  rw [fieldsOf, opField_eq, rsvField_toNat, polField_toNat, sgnField_toNat, bitsField_eq]

/-- The fields of a word are `f` exactly when the word is `f` laid out. -/
theorem fieldsOf_eq_iff {f : CommandFields} (hf : f.Fits) (w : CmdWord) :
    fieldsOf w = f ↔ w.toNat = f.number := by
  obtain ⟨hop, hrsv, hpol, hsgn, hbits⟩ := hf
  have hw := w.isLt
  rw [fieldsOf_eq, CommandFields.ext_iff, CommandFields.number]
  dsimp only
  omega

theorem fieldsOf_fits (w : CmdWord) : (fieldsOf w).Fits := by
  have hw := w.isLt
  rw [fieldsOf_eq, CommandFields.Fits]
  dsimp only
  omega

/-- A word is known by its fields. -/
theorem fieldsOf_injective {w v : CmdWord} (h : fieldsOf w = fieldsOf v) : w = v := by
  have hw := (fieldsOf_eq_iff (fieldsOf_fits v) w).1 h
  have hv := (fieldsOf_eq_iff (fieldsOf_fits v) v).1 rfl
  exact BitVec.eq_of_toNat_eq (hw.trans hv.symm)

theorem Policy.bit_le_one (p : Policy) : p.bit ≤ 1 := by cases p <;> decide

theorem Family.bit_le_one (g : Family) : g.bit ≤ 1 := by cases g <;> decide

theorem bitsFieldFits_iff (b : Nat) : bitsFieldFits b = true ↔ b < 128 := by
  simp only [bitsFieldFits, Config.bitsFieldMax, decide_eq_true_eq]
  omega

/-- The commands that have a word are those whose numbers fit its fields (R41). -/
theorem Instr.fields_fits_iff (i : Instr) : i.fields.Fits ↔ i.wellFormed = true := by
  cases i <;>
    simp [fields, CommandFields.Fits, wellFormed, bitsFieldFits_iff, Policy.bit_le_one,
      Family.bit_le_one]

end Sys2Proof
end

section
/-! ## The encoder lays out the fields of the command (R48) -/

namespace Sys2Proof

/-- A number above the low `k` bits and a number in them do not overlap. -/
theorem toNat_or_of_lt {k : Nat} {x y : CmdWord} (a : Nat) (hx : x.toNat = 2 ^ k * a)
    (hy : y.toNat < 2 ^ k) : (x ||| y).toNat = 2 ^ k * a + y.toNat := by
  rw [BitVec.toNat_or, hx, Nat.two_pow_add_eq_or_of_lt hy]

theorem toNat_ofNat_of_fits {b : Nat} (hb : b < 128) : (BitVec.ofNat 16 b).toNat = b := by
  rw [BitVec.toNat_ofNat]
  omega

theorem toNat_configBits (p : Policy) (g : Family) {b : Nat} (hb : b < 128) :
    (configBits p g b).toNat = 256 * p.bit + 128 * g.bit + b := by
  have hpol : (BitVec.ofNat 16 p.bit <<< 8).toNat = 2 ^ 8 * p.bit := by cases p <;> rfl
  have hsgn : (BitVec.ofNat 16 g.bit <<< 7).toNat = 2 ^ 7 * g.bit := by cases g <;> rfl
  have hg := g.bit_le_one
  have hbits := toNat_ofNat_of_fits hb
  have hlow := toNat_or_of_lt g.bit hsgn (y := BitVec.ofNat 16 b) (by omega)
  rw [configBits, BitVec.or_assoc, toNat_or_of_lt p.bit hpol (by omega), hlow, hbits]
  omega

/-- The word of a construction: the opcode above its configuration bits. -/
theorem toNat_or_configBits {x : CmdWord} (op : Nat) (hx : x.toNat = 2 ^ 12 * op) (p : Policy)
    (g : Family) {b : Nat} (hb : b < 128) :
    (x ||| configBits p g b).toNat = (⟨op, 0, p.bit, g.bit, b⟩ : CommandFields).number := by
  have hconfig := toNat_configBits p g hb
  have hp := p.bit_le_one
  have hg := g.bit_le_one
  rw [toNat_or_of_lt op hx (by omega), hconfig]
  simp only [CommandFields.number]
  omega

/-- The word of a range query: the opcode and `SGN` above `BITS`. -/
theorem toNat_or_bits {x : CmdWord} (sgn : Nat) (hx : x.toNat = 2 ^ 7 * (160 + sgn)) {b : Nat}
    (hb : b < 128) :
    (x ||| BitVec.ofNat 16 b).toNat = (⟨5, 0, 0, sgn, b⟩ : CommandFields).number := by
  have hbits := toNat_ofNat_of_fits hb
  rw [toNat_or_of_lt (160 + sgn) hx (by omega), hbits]
  simp only [CommandFields.number]
  omega

theorem toNat_encode {i : Instr} (h : i.wellFormed = true) :
    (encode i).toNat = i.fields.number := by
  cases i with
  | cons p g b => exact toNat_or_configBits 1 rfl p g ((bitsFieldFits_iff b).1 h)
  | consz p g b => exact toNat_or_configBits 2 rfl p g ((bitsFieldFits_iff b).1 h)
  | set => rfl
  | get => rfl
  | urange b => exact toNat_or_bits 0 rfl ((bitsFieldFits_iff b).1 h)
  | srange b => exact toNat_or_bits 1 rfl ((bitsFieldFits_iff b).1 h)

theorem fieldsOf_of_toNat {w : CmdWord} {i : Instr} (hi : i.wellFormed = true)
    (h : w.toNat = i.fields.number) : fieldsOf w = i.fields :=
  (fieldsOf_eq_iff (i.fields_fits_iff.2 hi) w).2 h

theorem fieldsOf_encode {i : Instr} (hi : i.wellFormed = true) : fieldsOf (encode i) = i.fields :=
  fieldsOf_of_toNat hi (toNat_encode hi)

end Sys2Proof
end

section
/-! ## The decoder reads the fields (R44, R45) -/

namespace Sys2Proof

@[simp] theorem policyOfBit_bit (b : Bool) : (policyOfBit b).bit = b.toNat := by cases b <;> rfl

@[simp] theorem familyOfBit_bit (b : Bool) : (familyOfBit b).bit = b.toNat := by cases b <;> rfl

theorem policyOfBit_eq_of_toNat {b : Bool} {p : Policy} (h : b.toNat = p.bit) :
    policyOfBit b = p := by
  cases b <;> cases p <;> trivial

theorem familyOfBit_eq_of_toNat {b : Bool} {g : Family} (h : b.toNat = g.bit) :
    familyOfBit b = g := by
  cases b <;> cases g <;> trivial

/-- SET and GET are read off a word whose other fields are zero. -/
theorem decodePlain_eq_ok_iff {w : CmdWord} {i j : Instr} :
    decodePlain w i = .ok j ↔
      i = j ∧ (polField w).toNat = 0 ∧ (sgnField w).toNat = 0 ∧ bitsField w = 0 := by
  unfold decodePlain
  split
  case isTrue hused =>
    refine iff_of_false (by simp) fun ⟨_, hpol, hsgn, hbits⟩ => ?_
    simp_all
  case isFalse hzero => simp_all

theorem decodeRange_eq_ok_iff {w : CmdWord} {j : Instr} :
    decodeRange w = .ok j ↔ (polField w).toNat = 0 ∧
      ((sgnField w).toNat = 0 ∧ .urange (bitsField w) = j ∨
        (sgnField w).toNat = 1 ∧ .srange (bitsField w) = j) := by
  unfold decodeRange
  split_ifs with hpol hsgn
  · simp [hpol]
  · simp [hpol, hsgn]
  · simp [hpol, hsgn]

theorem fieldsOf_of_decode {w : CmdWord} {i : Instr} (h : decode w = .ok i) :
    fieldsOf w = i.fields := by
  unfold decode at h
  split_ifs at h with hrsv
  have hrsv : rsvField w = 0 := by simpa using hrsv
  split at h
  case _ hop | _ hop =>
    obtain rfl := Except.ok.inj h
    simp [fieldsOf, Instr.fields, hop, hrsv]
  case _ hop | _ hop =>
    obtain ⟨rfl, hpol, hsgn, hbits⟩ := decodePlain_eq_ok_iff.1 h
    simp [fieldsOf, Instr.fields, hop, hrsv, hpol, hsgn, hbits]
  case _ hop =>
    obtain ⟨hpol, ⟨hsgn, rfl⟩ | ⟨hsgn, rfl⟩⟩ := decodeRange_eq_ok_iff.1 h
    · simp [fieldsOf, Instr.fields, hop, hrsv, hpol, hsgn]
    · simp [fieldsOf, Instr.fields, hop, hrsv, hpol, hsgn]
  case _ => cases h

theorem decode_of_fieldsOf {w : CmdWord} {i : Instr} (h : fieldsOf w = i.fields) :
    decode w = .ok i := by
  have hrsv : rsvField w = 0 :=
    BitVec.eq_of_toNat_eq ((congrArg CommandFields.rsv h).trans (by cases i <;> rfl))
  cases i <;> simp only [fieldsOf, Instr.fields, CommandFields.mk.injEq] at h <;>
    obtain ⟨hop, -, hpol, hsgn, hbits⟩ := h <;> simp only [decode, hop, hrsv]
  case cons p g b | consz p g b =>
    simp [policyOfBit_eq_of_toNat hpol, familyOfBit_eq_of_toNat hsgn, hbits]
  case set | get => exact decodePlain_eq_ok_iff.2 ⟨rfl, hpol, hsgn, hbits⟩
  case urange b => exact decodeRange_eq_ok_iff.2 ⟨hpol, .inl ⟨hsgn, by rw [hbits]⟩⟩
  case srange b => exact decodeRange_eq_ok_iff.2 ⟨hpol, .inr ⟨hsgn, by rw [hbits]⟩⟩

/-- A word decodes to a command exactly when its fields spell the command. -/
theorem decode_eq_ok_iff {w : CmdWord} {i : Instr} : decode w = .ok i ↔ fieldsOf w = i.fields :=
  ⟨fieldsOf_of_decode, decode_of_fieldsOf⟩

/-- Settles O1: encoding lays out the fields of the command, and decoding reads them. -/
theorem decodeOfEncodeReturnsTheCommand : Obligations.DecodeOfEncodeReturnsTheCommand :=
  fun _ hi => decode_eq_ok_iff.2 (fieldsOf_encode hi)

/-- Settles O2: the fields of a word fit, so its command has a word, with the same fields. -/
theorem encodeOfDecodeReturnsTheWord : Obligations.EncodeOfDecodeReturnsTheWord := by
  intro w i hd
  have hfields := decode_eq_ok_iff.1 hd
  have hi : i.wellFormed = true := i.fields_fits_iff.1 (hfields ▸ fieldsOf_fits w)
  exact ⟨hi, fieldsOf_injective ((fieldsOf_encode hi).trans hfields.symm)⟩

/-- Settles O5: the legal words are those the encoder gives the commands beside them. -/
theorem workedWordsDecode : Obligations.WorkedWordsDecode := by
  have round := decodeOfEncodeReturnsTheCommand
  exact ⟨round (.cons .wrap .unsigned 8) rfl, round (.cons .clamp .unsigned 8) rfl,
    round (.consz .wrap .signed 8) rfl, round (.cons .clamp .signed 8) rfl,
    round (.cons .clamp .signed 32) rfl, round (.cons .wrap .unsigned 64) rfl,
    round .set rfl, round .get rfl, round (.urange 8) rfl, round (.srange 8) rfl,
    round (.srange 64) rfl, round (.cons .wrap .unsigned 65) rfl, rfl, rfl, rfl, rfl⟩

end Sys2Proof
end

section
/-! ## The opcode table (R44) -/

namespace Sys2Proof

/-- How many words select the row: the mask leaves its low bits free. -/
def OpcodeRow.span (row : OpcodeRow) : Nat := 2 ^ 16 - row.mask.toNat

/-- Each mask of the table leaves the low `k` bits free, which are zero in the row's pattern. -/
theorem mask_of_mem_opcodeTable : ∀ row ∈ opcodeTable, ∃ k < 16,
    row.mask = BitVec.allOnes 16 <<< k ∧ 2 ^ k ∣ row.pattern.toNat ∧ row.span = 2 ^ k := by
  decide

/-- Each row's words are words of 16 bits. -/
theorem span_fits : ∀ row ∈ opcodeTable, row.pattern.toNat + row.span ≤ 2 ^ 16 := by
  decide

/-- The words that select a row are an interval from its pattern on. -/
theorem and_mask_eq_iff {row : OpcodeRow} (h : row ∈ opcodeTable) (w : CmdWord) :
    w &&& row.mask = row.pattern ↔
      row.pattern.toNat ≤ w.toNat ∧ w.toNat < row.pattern.toNat + row.span := by
  obtain ⟨k, -, hmask, ⟨m, hm⟩, hspan⟩ := mask_of_mem_opcodeTable row h
  have hlow : (w &&& row.mask).toNat = w.toNat / 2 ^ k * 2 ^ k := by
    rw [hmask, ← BitVec.shiftLeft_ushiftRight, BitVec.toNat_shiftLeft, BitVec.toNat_ushiftRight,
      Nat.shiftRight_eq_div_pow, Nat.shiftLeft_eq]
    exact Nat.mod_eq_of_lt ((Nat.div_mul_le_self _ _).trans_lt w.isLt)
  have hpos : 0 < 2 ^ k := Nat.two_pow_pos k
  rw [← BitVec.toNat_inj, hlow, hspan, hm, Nat.mul_comm _ m, Nat.mul_left_inj hpos.ne',
    Nat.div_eq_iff hpos]
  omega

/-- The table has one row for each mnemonic. -/
theorem eq_of_mnemonic_eq : ∀ row ∈ opcodeTable, ∀ other ∈ opcodeTable,
    row.mnemonic = other.mnemonic → row = other := by
  decide

theorem OpcodeRow.selects_iff (row : OpcodeRow) (w : CmdWord) :
    row.selects w = true ↔ w &&& row.mask = row.pattern := beq_iff_eq

/-- The word of a command selects the row of its mnemonic. -/
theorem selects_of_decode {w : CmdWord} {i : Instr} (h : decode w = .ok i) :
    ∃ row ∈ opcodeTable, row.mnemonic = i.mnemonic ∧ row.selects w = true := by
  obtain ⟨hi, rfl⟩ := encodeOfDecodeReturnsTheWord w i h
  cases i with
  | cons p g b => exact Laws.TableRow.cons p g b hi
  | consz p g b => exact Laws.TableRow.consz p g b hi
  | set => exact Laws.TableRow.set hi
  | get => exact Laws.TableRow.get hi
  | urange b => exact Laws.TableRow.urange b hi
  | srange b => exact Laws.TableRow.srange b hi

/-- A word that selects CONS or CONSZ has its opcode, no `RSV`, and any `POL`, `SGN` and `BITS`. -/
theorem fieldsOf_of_construction_span {w : CmdWord} (op : Nat)
    (h : 4096 * op ≤ w.toNat ∧ w.toNat < 4096 * op + 512) :
    fieldsOf w = ⟨op, 0, (polField w).toNat, (sgnField w).toNat, bitsField w⟩ := by
  rw [fieldsOf_eq, CommandFields.ext_iff, polField_toNat, sgnField_toNat, bitsField_eq]
  dsimp only
  omega

/-- A word that selects URANGE or SRANGE has its opcode and `SGN`, and any `BITS`. -/
theorem fieldsOf_of_range_span {w : CmdWord} (sgn : Nat) (hsgn : sgn < 2)
    (h : 128 * (160 + sgn) ≤ w.toNat ∧ w.toNat < 128 * (160 + sgn) + 128) :
    fieldsOf w = ⟨5, 0, 0, sgn, bitsField w⟩ := by
  rw [fieldsOf_eq, CommandFields.ext_iff, bitsField_eq]
  dsimp only
  omega

/-- A word that selects a row has the fields of a command of its mnemonic. -/
theorem decode_of_selects {row : OpcodeRow} (hrow : row ∈ opcodeTable) {w : CmdWord}
    (h : w &&& row.mask = row.pattern) : ∃ i, decode w = .ok i ∧ i.mnemonic = row.mnemonic := by
  have hspan := (and_mask_eq_iff hrow w).1 h
  have ⟨hlo, hhi⟩ := hspan
  simp only [decode_eq_ok_iff]
  simp only [opcodeTable, List.mem_cons, List.not_mem_nil, or_false] at hrow
  rcases hrow with rfl | rfl | rfl | rfl | rfl | rfl
  · refine ⟨.cons (policyOfBit (polField w)) (familyOfBit (sgnField w)) (bitsField w), ?_, rfl⟩
    simpa [Instr.fields] using fieldsOf_of_construction_span 1 hspan
  · refine ⟨.consz (policyOfBit (polField w)) (familyOfBit (sgnField w)) (bitsField w), ?_, rfl⟩
    simpa [Instr.fields] using fieldsOf_of_construction_span 2 hspan
  · exact ⟨.set, fieldsOf_of_toNat rfl (Nat.le_antisymm (Nat.le_of_lt_succ hhi) hlo), rfl⟩
  · exact ⟨.get, fieldsOf_of_toNat rfl (Nat.le_antisymm (Nat.le_of_lt_succ hhi) hlo), rfl⟩
  · exact ⟨.urange (bitsField w), fieldsOf_of_range_span 0 (by decide) hspan, rfl⟩
  · exact ⟨.srange (bitsField w), fieldsOf_of_range_span 1 (by decide) hspan, rfl⟩

/-- A word decodes to a command of a row's mnemonic exactly when it selects the row. -/
theorem decode_mnemonic_iff {row : OpcodeRow} (hrow : row ∈ opcodeTable) (w : CmdWord) :
    (∃ i, decode w = .ok i ∧ i.mnemonic = row.mnemonic) ↔ w &&& row.mask = row.pattern := by
  refine ⟨?_, decode_of_selects hrow⟩
  rintro ⟨i, hd, hi⟩
  obtain ⟨other, hother, hmn, hsel⟩ := selects_of_decode hd
  obtain rfl := eq_of_mnemonic_eq other hother row hrow (hmn.trans hi)
  exact (other.selects_iff w).1 hsel

/-- A word selects at most one row: the mnemonic of the command tells the rows apart. -/
theorem eq_of_selects {row other : OpcodeRow} (hrow : row ∈ opcodeTable)
    (hother : other ∈ opcodeTable) {w : CmdWord} (h : row.selects w = true)
    (h' : other.selects w = true) : other = row := by
  obtain ⟨i, hd, hi⟩ := decode_of_selects hrow ((row.selects_iff w).1 h)
  obtain ⟨j, hd', hj⟩ := decode_of_selects hother ((other.selects_iff w).1 h')
  obtain rfl := Except.ok.inj (hd.symm.trans hd')
  exact eq_of_mnemonic_eq other hother row hrow (hj.symm.trans hi)

/-- Settles O3: a command's word selects the row of its mnemonic, and a word that selects a row is
that of a command of its mnemonic. -/
theorem decodeSelectsTheTableRow : Obligations.DecodeSelectsTheTableRow := fun w _ hrow =>
  ⟨decode_mnemonic_iff hrow w, fun _ hother h h' => eq_of_selects hrow hother h h'⟩

end Sys2Proof
end

section
/-! ## How many words are commands (R45) -/

namespace Sys2Proof.Machine

/-- How many numbers below `n` lie in an interval. -/
theorem countP_range_interval (lo hi n : Nat) :
    (List.range n).countP (fun k => decide (lo ≤ k ∧ k < hi)) = min n hi - lo := by
  induction n with
  | zero => simp
  | succ n ih =>
    rw [List.range_succ, List.countP_append, ih, List.countP_singleton]
    simp only [decide_eq_true_eq]
    split <;> omega

/-- As many words decode to a row's mnemonic as the row's mask leaves free. -/
theorem wordCount_eq_span {row : OpcodeRow} (hrow : row ∈ opcodeTable) :
    wordCount row.mnemonic = row.span := by
  have hcount := countP_range_interval row.pattern.toNat (row.pattern.toNat + row.span) (2 ^ 16)
  rw [Nat.min_eq_right (span_fits row hrow), Nat.add_sub_cancel_left] at hcount
  rw [← hcount, wordCount]
  refine List.countP_congr fun n hn => ?_
  have hn : (BitVec.ofNat 16 n).toNat = n := Nat.mod_eq_of_lt (List.mem_range.1 hn)
  have hiff := (decode_mnemonic_iff hrow (BitVec.ofNat 16 n)).trans (and_mask_eq_iff hrow _)
  rw [hn] at hiff
  rw [decide_eq_true_iff, ← hiff]
  cases decode (BitVec.ofNat 16 n) with
  | error r => simp
  | ok i => simp

/-- The word `n` decodes to a command of this mnemonic. -/
def isWordOf (mnemonic : String) (n : Nat) : Bool :=
  match decode (BitVec.ofNat 16 n) with
  | .ok i => i.mnemonic == mnemonic
  | .error _ => false

/-- The word `n` decodes to no command. -/
def isIllegalWord (n : Nat) : Bool :=
  match decode (BitVec.ofNat 16 n) with
  | .ok _ => false
  | .error _ => true

/-- The list of words is a variable here, lest a proof about the counts have it evaluated. -/
theorem wordCount_eq_countP {l : List Nat} (hl : l = List.range (2 ^ 16)) (mnemonic : String) :
    wordCount mnemonic = l.countP (isWordOf mnemonic) := by
  rw [hl]
  rfl

theorem illegalWordCount_eq_countP {l : List Nat} (hl : l = List.range (2 ^ 16)) :
    illegalWordCount = l.countP isIllegalWord := by
  rw [hl]
  rfl

/-- A word has one of the six mnemonics or is illegal. -/
theorem word_has_one_kind (n : Nat) :
    (isWordOf "CONS" n).toNat + (isWordOf "CONSZ" n).toNat + (isWordOf "SET" n).toNat +
      (isWordOf "GET" n).toNat + (isWordOf "URANGE" n).toNat + (isWordOf "SRANGE" n).toNat +
      (isIllegalWord n).toNat = 1 := by
  unfold isWordOf isIllegalWord
  cases decode (BitVec.ofNat 16 n) with
  | error r => rfl
  | ok i => cases i <;> rfl

/-- Every word of a list is counted once: by its mnemonic, or among the illegal words. -/
theorem countP_kinds (l : List Nat) :
    l.countP (isWordOf "CONS") + l.countP (isWordOf "CONSZ") + l.countP (isWordOf "SET") +
      l.countP (isWordOf "GET") + l.countP (isWordOf "URANGE") + l.countP (isWordOf "SRANGE") +
      l.countP isIllegalWord = l.length := by
  induction l with
  | nil => rfl
  | cons n l ih =>
    have hone := word_has_one_kind n
    simp only [Bool.toNat, Bool.cond_eq_ite] at hone
    simp only [List.countP_cons, List.length_cons]
    omega

theorem wordCounts_add_illegalWordCount : wordCount "CONS" + wordCount "CONSZ" + wordCount "SET" +
    wordCount "GET" + wordCount "URANGE" + wordCount "SRANGE" + illegalWordCount = 2 ^ 16 := by
  obtain ⟨l, hl⟩ : ∃ l, l = List.range (2 ^ 16) := ⟨_, rfl⟩
  simp only [wordCount_eq_countP hl, illegalWordCount_eq_countP hl]
  rw [countP_kinds, hl, List.length_range]

/-- Settles O4: each mnemonic has the words its row's mask leaves free, and the rest are illegal. -/
theorem legalWordCounts : Obligations.LegalWordCounts := by
  have hcons : wordCount "CONS" = 512 :=
    wordCount_eq_span (row := ⟨"CONS", 0x1000, 0xFE00⟩) (by decide)
  have hconsz : wordCount "CONSZ" = 512 :=
    wordCount_eq_span (row := ⟨"CONSZ", 0x2000, 0xFE00⟩) (by decide)
  have hset : wordCount "SET" = 1 :=
    wordCount_eq_span (row := ⟨"SET", 0x3000, 0xFFFF⟩) (by decide)
  have hget : wordCount "GET" = 1 :=
    wordCount_eq_span (row := ⟨"GET", 0x4000, 0xFFFF⟩) (by decide)
  have hurange : wordCount "URANGE" = 128 :=
    wordCount_eq_span (row := ⟨"URANGE", 0x5000, 0xFF80⟩) (by decide)
  have hsrange : wordCount "SRANGE" = 128 :=
    wordCount_eq_span (row := ⟨"SRANGE", 0x5080, 0xFF80⟩) (by decide)
  have htotal := wordCounts_add_illegalWordCount
  refine ⟨hcons, hconsz, hset, hget, hurange, hsrange, ?_⟩
  rw [hcons, hconsz, hset, hget, hurange, hsrange] at htotal
  omega

end Sys2Proof.Machine
end

section
/-! ## The response of a command (R46, R51) -/

namespace Sys2Proof

/-- What the decode order of R51 answers a command: steps (2) to (4). -/
def Instr.status (constructed : Bool) : Instr → Machine.Status
  | .cons _ _ bits | .consz _ _ bits | .urange bits | .srange bits =>
    if Machine.bitsLegal bits then .ok else .badBits
  | .set | .get => if constructed then .ok else .notConstructed

/-- The data of a performed command, where it leaves `val` in `VAL` (R46). -/
def Instr.result (val : ValWord) : Instr → ValWord × ValWord
  | .urange bits =>
    (Machine.enc65 (Machine.lowerBound bits .unsigned),
      Machine.enc65 (Machine.upperBound bits .unsigned))
  | .srange bits =>
    (Machine.enc65 (Machine.lowerBound bits .signed),
      Machine.enc65 (Machine.upperBound bits .signed))
  | .cons _ _ _ | .consz _ _ _ | .set | .get => (val, 0#65)

end Sys2Proof

namespace Sys2Proof.Machine

/-- The response with a status: the data where it is Ok, and none otherwise (R46, R126). -/
def answerOf (status : Status) (data : ValWord × ValWord) : Response :=
  if status = .ok then ⟨.ok, data.1, data.2⟩ else ⟨status, 0#65, 0#65⟩

@[simp] theorem answerOf_status (c : Status) (data : ValWord × ValWord) :
    (answerOf c data).status = c := by
  unfold answerOf
  split_ifs with h
  · exact h.symm
  · rfl

theorem answerOf_ok (data : ValWord × ValWord) : answerOf .ok data = ⟨.ok, data.1, data.2⟩ := rfl

theorem answerOf_of_ne_ok {c : Status} (h : c ≠ .ok) (data : ValWord × ValWord) :
    answerOf c data = ⟨c, 0#65, 0#65⟩ := if_neg h

theorem construct_rsp (b : Nat) (g : Family) (p : Policy) (raw : Int) (s : State) :
    (construct b g p raw s).rsp = some (answerOf (if bitsLegal b then .ok else .badBits)
      ((construct b g p raw s).val, 0#65)) := by
  cases h : bitsLegal b with
  | true => rw [construct_of_legal h]; rfl
  | false => rw [construct_of_not_legal h]; rfl

theorem accessValue_rsp (raw : Int) (s : State) :
    (accessValue raw s).rsp = some (answerOf (if s.constructed then .ok else .notConstructed)
      ((accessValue raw s).val, 0#65)) := by
  cases h : s.constructed with
  | true => rw [accessValue_of_constructed h]; rfl
  | false => rw [accessValue_of_not_constructed h]; rfl

theorem queryRange_rsp (b : Nat) (g : Family) (s : State) :
    (queryRange b g s).rsp = some (answerOf (if bitsLegal b then .ok else .badBits)
      (enc65 (lowerBound b g), enc65 (upperBound b g))) := by
  cases h : bitsLegal b with
  | true => rw [queryRange_of_legal h, rangeFromBits_eq h]; rfl
  | false => rw [queryRange_of_not_legal h]; rfl

/-- The response of a command is that of R46's table. -/
theorem exec_rsp {i : Instr} {s t : State} (h : exec i s = .next t) :
    t.rsp = some (answerOf (i.status s.constructed) (i.result t.val)) := by
  cases i <;> obtain rfl := Host.Outcome.next.inj h
  case cons p g b => exact construct_rsp b g p (dataOperand s) s
  case consz p g b => exact construct_rsp b g p 0 s
  case set => exact accessValue_rsp (dataOperand s) s
  case get => exact accessValue_rsp (sint65 s.val) s
  case urange b => exact queryRange_rsp b .unsigned s
  case srange b => exact queryRange_rsp b .signed s

/-- What a step answers a presented word: it runs the command, or the word is illegal. -/
theorem step_rsp_cases {s : State} {w : CmdWord} {d : RawBus} {rest : List HostEvent}
    (hs : s.host = .command w d :: rest) : ∃ t, step s = .next t ∧
      ((∃ i, decode w = .ok i ∧ exec i (accept d rest s) = .next t ∧
          t.rsp = some (answerOf (i.status s.constructed) (i.result t.val))) ∨
        (∃ e, decode w = .error e) ∧ t.rsp = some ⟨.illegalCmd, 0#65, 0#65⟩) := by
  cases hd : decode w with
  | error e => exact ⟨_, step_of_decode_error hs hd, .inr ⟨⟨e, rfl⟩, rfl⟩⟩
  | ok i =>
    obtain ⟨t, ht⟩ := exec_answers i (accept d rest s)
    exact ⟨t, (step_of_decode_ok hs hd).trans ht,
      .inl ⟨i, rfl, ht, accept_constructed d rest s ▸ exec_rsp ht⟩⟩

end Sys2Proof.Machine
end

section
/-! ## The status by the opcode table (R51) -/

namespace Sys2Proof.Machine

/-- A word that decodes to no command selects no row. -/
theorem find?_row_of_decode_error {w : CmdWord} {e : DecodeReject} (h : decode w = .error e) :
    opcodeTable.find? (fun row => row.selects w) = none := by
  refine List.find?_eq_none.2 fun row hrow hsel => ?_
  obtain ⟨i, hd, -⟩ := decode_of_selects hrow ((row.selects_iff w).1 hsel)
  cases h.symm.trans hd

/-- The row found for the word of a command is that of its mnemonic. -/
theorem find?_row_of_decode_ok {w : CmdWord} {i : Instr} (h : decode w = .ok i) :
    ∃ row, opcodeTable.find? (fun row => row.selects w) = some row ∧
      row.mnemonic = i.mnemonic := by
  obtain ⟨row, hrow, hmn, hsel⟩ := selects_of_decode h
  cases hfind : opcodeTable.find? (fun row => row.selects w) with
  | none => exact absurd hsel (List.find?_eq_none.1 hfind row hrow)
  | some found =>
    have hmem := List.mem_of_find?_eq_some hfind
    have hselects := List.find?_some hfind
    exact ⟨found, rfl, by rw [eq_of_selects hrow hmem hsel hselects, hmn]⟩

theorem statusByTable_of_decode_error {w : CmdWord} {e : DecodeReject} (h : decode w = .error e)
    (constructed : Bool) : statusByTable w constructed = .illegalCmd := by
  rw [statusByTable, find?_row_of_decode_error h]

theorem statusByTable_of_decode_ok {w : CmdWord} {i : Instr} (h : decode w = .ok i)
    (constructed : Bool) : statusByTable w constructed = i.status constructed := by
  obtain ⟨row, hfind, hmn⟩ := find?_row_of_decode_ok h
  obtain rfl | rfl | rfl | rfl | rfl | rfl := decode_cases h <;>
    simp [statusByTable, hfind, hmn, Instr.mnemonic, Instr.status, bitsLegal_iff]

/-- Settles O11: a word decodes where it selects a row, and each command checks what its row asks
for. -/
theorem statusFollowsTheDecodeOrder : Obligations.StatusFollowsTheDecodeOrder := by
  intro s w d rest hs
  obtain ⟨t, ht, ⟨i, hd, hexec, hrsp⟩ | ⟨⟨e, hd⟩, hrsp⟩⟩ := step_rsp_cases hs
  · refine ⟨t, _, ht, hrsp, ?_, fun _ => ⟨i, hd, hexec⟩⟩
    rw [answerOf_status, statusByTable_of_decode_ok hd]
  · rw [statusByTable_of_decode_error hd]
    exact ⟨t, _, ht, hrsp, rfl, nofun⟩

end Sys2Proof.Machine
end

section
/-! ## The data of a response (R46) -/

namespace Sys2Proof.Machine

theorem toInt_enc65_bounds {b : Nat} (h : bitsLegal b = true) (g : Family) :
    (enc65 (lowerBound b g)).toInt = lowerBound b g ∧
      (enc65 (upperBound b g)).toInt = upperBound b g := by
  obtain ⟨hlo, hhi⟩ := range_fits_65_bits h g
  have hlt := lowerBound_lt_upperBound h g
  exact ⟨enc65_toInt hlo (hlt.trans hhi), enc65_toInt (hlo.trans hlt.le) hhi⟩

theorem bitsLegal_of_query_ok {b : Nat} {c : Bool} {i : Instr} (hi : i = .urange b ∨ i = .srange b)
    (h : i.status c = .ok) : bitsLegal b = true := by
  obtain rfl | rfl := hi <;> simpa [Instr.status] using h

/-- A command that is no range query returns `VAL`. -/
theorem result_of_not_query {i : Instr} (h : ∀ b, i ≠ .urange b ∧ i ≠ .srange b) (v : ValWord) :
    i.result v = (v, 0#65) := by
  cases i with
  | cons p g b => rfl
  | consz p g b => rfl
  | set => rfl
  | get => rfl
  | urange b => exact absurd rfl (h b).1
  | srange b => exact absurd rfl (h b).2

/-- Settles O13: the response is that of R46's table, and a range that is returned is legal, so 65
bits hold it. -/
theorem responseCarriesTheResult : Obligations.ResponseCarriesTheResult := by
  intro s w d rest hs
  obtain ⟨t, ht, ⟨i, hd, hexec, hrsp⟩ | ⟨-, hrsp⟩⟩ := step_rsp_cases hs
  · refine ⟨t, _, ht, hrsp, fun hne => ?_, fun hok => ⟨i, hd, ?_⟩⟩
    · rw [answerOf_status] at hne
      rw [answerOf_of_ne_ok hne]
      exact ⟨rfl, rfl⟩
    · rw [answerOf_status] at hok
      rw [hok, answerOf_ok]
      refine ⟨fun b hi => ?_, fun b hi => ?_, fun hi => ?_⟩
      · have hb := bitsLegal_of_query_ok (.inl hi) hok
        rw [hi]
        exact toInt_enc65_bounds hb .unsigned
      · have hb := bitsLegal_of_query_ok (.inr hi) hok
        rw [hi]
        exact toInt_enc65_bounds hb .signed
      · rw [result_of_not_query hi]
        exact ⟨rfl, rfl⟩
  · exact ⟨t, _, ht, hrsp, fun _ => ⟨rfl, rfl⟩, nofun⟩

end Sys2Proof.Machine
end

section
/-! ## Every step answers, and what the operand bus does not reach (R40, R43) -/

namespace Sys2Proof.Machine

theorem isCommand_iff (e : HostEvent) : e.isCommand = true ↔ ∃ w d, e = .command w d := by
  cases e <;> simp [HostEvent.isCommand]

/-- Settles O7: a step without an event is idle, and one with an event serves it. -/
theorem everyStepAnswers : Obligations.EveryStepAnswers := by
  intro s
  cases hs : s.host with
  | nil => exact ⟨_, step_of_no_event hs, hs, by simp⟩
  | cons e es =>
    have hstep : step s = .next ((serve e s).withHost es) := by
      have hself : s.withHost (e :: es) = s := by rw [← hs]; rfl
      exact hself ▸ step_withHost_cons e es s
    refine ⟨_, hstep, rfl, ?_⟩
    rw [withHost_rsp, serve_rsp_isSome, isCommand_iff]
    simp

theorem construct_accept (b : Nat) (g : Family) (p : Policy) (raw : Int) (d : RawBus)
    (rest : List HostEvent) (s : State) :
    construct b g p raw (accept d rest s) = accept d rest (construct b g p raw s) := by
  cases h : bitsLegal b with
  | true => simp only [construct_of_legal h]; rfl
  | false => simp only [construct_of_not_legal h]; rfl

theorem accessValue_accept (raw : Int) (d : RawBus) (rest : List HostEvent) (s : State) :
    accessValue raw (accept d rest s) = accept d rest (accessValue raw s) := by
  have hsame := accept_constructed d rest s
  cases h : s.constructed with
  | true => rw [accessValue_of_constructed h, accessValue_of_constructed (hsame.trans h)]; rfl
  | false =>
    rw [accessValue_of_not_constructed h, accessValue_of_not_constructed (hsame.trans h)]; rfl

theorem queryRange_accept (b : Nat) (g : Family) (d : RawBus) (rest : List HostEvent) (s : State) :
    queryRange b g (accept d rest s) = accept d rest (queryRange b g s) := by
  cases h : bitsLegal b with
  | true => simp only [queryRange_of_legal h]; rfl
  | false => simp only [queryRange_of_not_legal h]; rfl

/-- CONSZ, GET, URANGE and SRANGE write what they would write with any operand (R43). -/
theorem exec_accept_of_unused {i : Instr}
    (hi : i = .get ∨ (∃ p g b, i = .consz p g b) ∨ (∃ b, i = .urange b) ∨ ∃ b, i = .srange b)
    (s : State) (rest : List HostEvent) :
    ∃ t, ∀ d, exec i (accept d rest s) = .next (accept d rest t) := by
  obtain rfl | ⟨p, g, b, rfl⟩ | ⟨b, rfl⟩ | ⟨b, rfl⟩ := hi
  · exact ⟨_, fun d => congrArg _ (accessValue_accept (sint65 s.val) d rest s)⟩
  · exact ⟨_, fun d => congrArg _ (construct_accept b g p 0 d rest s)⟩
  · exact ⟨_, fun d => congrArg _ (queryRange_accept b .unsigned d rest s)⟩
  · exact ⟨_, fun d => congrArg _ (queryRange_accept b .signed d rest s)⟩

/-- Settles O40: the two steps accept different operands, and the command reads neither. -/
theorem unusedOperandIsIgnored : Obligations.UnusedOperandIsIgnored := by
  intro s w d d' rest i hd hi
  obtain ⟨t, ht⟩ := exec_accept_of_unused hi s rest
  exact ⟨accept d rest t, (step_of_decode_ok rfl hd).trans (ht d),
    (step_of_decode_ok rfl hd).trans (ht d')⟩

end Sys2Proof.Machine
end

section
/-! ## The handshake around a transaction (R40, R148) -/

namespace Sys2Proof.Machine

/-- The block with registers `t`, a flight that has `left` cycles to go to its response `r`, `n`
commands accepted and cycle number `c`. -/
def inFlight (t : State) (r : Response) (n left c : Nat) : Block := ⟨t, some ⟨left, r⟩, n, c⟩

/-- A command that is presented while none is in flight takes off. -/
theorem edge_of_accept {b : Block} {p : PinsIn} {t : State} {r : Response}
    (hflight : b.flight = none) (hrst : p.rst = false) (hvalid : p.cmdValid = true)
    (ht : step (offer (.command p.cmdWord p.cmdData) b.arch) = .next t) (hr : t.rsp = some r) :
    edge b p = .next (inFlight t r (b.accepted + 1) (Config.lat b.accepted) (b.cycle + 1)) := by
  simp [edge, hrst, hflight, hvalid, transact, ht, takeOff, hr, inFlight]

theorem edge_quiet_inFlight (p : PinsIn) (t : State) (r : Response) (n left c : Nat) :
    edge (inFlight t r n (left + 2) c) (quiet p) = .next (inFlight t r n (left + 1) (c + 1)) := rfl

/-- The edge at the end of the response cycle ends the flight. -/
theorem edge_quiet_landing (p : PinsIn) (t : State) (r : Response) (n c : Nat) :
    edge (inFlight t r n 1 c) (quiet p) = .next ⟨t, none, n, c + 1⟩ := rfl

theorem waitQuiet_succ_of_edge {p : PinsIn} {b b' : Block} (h : edge b (quiet p) = .next b')
    (k : Nat) : waitQuiet p (k + 1) b = waitQuiet p k b' := by
  rw [waitQuiet, h]

/-- Quiet cycles bring the response nearer and change nothing else. -/
theorem waitQuiet_inFlight (p : PinsIn) (t : State) (r : Response) (n left k c : Nat) :
    waitQuiet p k (inFlight t r n (left + k + 1) c) =
      .next (inFlight t r n (left + 1) (c + k)) := by
  induction k generalizing c with
  | zero => rfl
  | succ k ih =>
    have hedge := edge_quiet_inFlight p t r n (left + k) c
    rw [← Nat.add_assoc left k 1, waitQuiet_succ_of_edge hedge, ih, Nat.add_assoc c,
      Nat.add_comm 1]

theorem waitQuiet_landing (p : PinsIn) (t : State) (r : Response) (n k c : Nat) :
    waitQuiet p (k + 1) (inFlight t r n (k + 1) c) = .next ⟨t, none, n, c + (k + 1)⟩ := by
  induction k generalizing c with
  | zero => exact waitQuiet_succ_of_edge (edge_quiet_landing p t r n c) 0
  | succ k ih =>
    rw [waitQuiet_succ_of_edge (edge_quiet_inFlight p t r n k c), ih, Nat.add_assoc c,
      Nat.add_comm 1]

theorem outputs_ready_of_no_flight {b : Block} {p : PinsIn} (hflight : b.flight = none)
    (hrst : p.rst = false) : (outputs b p).cmdReady = true ∧ (outputs b p).rspValid = false := by
  simp [outputs, rspNow, cmdReadyNow, hflight, hrst]

/-- Before the response cycle the port is busy and answers nothing. -/
theorem outputs_quiet_inFlight (p : PinsIn) (t : State) (r : Response) (n left c : Nat) :
    (outputs (inFlight t r n (left + 2) c) (quiet p)).cmdReady = false ∧
      (outputs (inFlight t r n (left + 2) c) (quiet p)).rspValid = false := ⟨rfl, rfl⟩

/-- The response cycle. -/
theorem outputs_quiet_landing (p : PinsIn) (t : State) (r : Response) (n c : Nat) :
    outputs (inFlight t r n 1 c) (quiet p) = ⟨false, true, r.status.code, r.data0, r.data1⟩ := rfl

/-- Settles O45: the command takes off with the response of `step`, every quiet edge brings it
a cycle nearer, and the last one lands it. -/
theorem handshakeCarriesTheTransaction : Obligations.HandshakeCarriesTheTransaction := by
  intro b p hflight hrst hvalid
  obtain ⟨t, ht, -, hrsp⟩ := everyStepAnswers (offer (.command p.cmdWord p.cmdData) b.arch)
  obtain ⟨r, hr⟩ := Option.isSome_iff_exists.1 (hrsp.2 ⟨_, _, _, rfl⟩)
  have hedge := edge_of_accept hflight hrst hvalid ht hr
  have ⟨hready, _⟩ := outputs_ready_of_no_flight hflight hrst
  obtain ⟨lat, hlat⟩ : ∃ lat, Config.lat b.accepted = lat + 1 := ⟨_, rfl⟩
  rw [hlat] at hedge ⊢
  refine ⟨t, r, _, _, ht, hr, hready, hedge, by omega, fun k hk hle => ?_,
    waitQuiet_landing p t r _ lat _, rfl, rfl, rfl, rfl⟩
  obtain ⟨left, hleft⟩ : ∃ left, lat + 1 = left + (k - 1) + 1 := ⟨lat + 1 - k, by omega⟩
  rw [hleft]
  refine ⟨_, waitQuiet_inFlight p t r _ left (k - 1) _, ?_⟩
  cases left with
  | zero =>
    rw [outputs_quiet_landing]
    exact ⟨rfl, iff_of_true rfl (by omega), fun _ => ⟨rfl, rfl, rfl⟩⟩
  | succ left =>
    obtain ⟨hbusy, hsilent⟩ := outputs_quiet_inFlight p t r (b.accepted + 1) left
      (b.cycle + 1 + (k - 1))
    exact ⟨hbusy, iff_of_false (by simp [hsilent]) (by omega), fun h => by omega⟩

end Sys2Proof.Machine
end

/-! # The range deriver: its closed forms, and the commands that return a range

Proofs of the statements on 40_range_derivation.md. First the arithmetic of a derived range, for both
families at once; then the word, the answer and the refusal of a range query. -/

section
/-! ## The closed forms of a range (R66) -/

namespace Sys2Proof.Machine

/-- Both families have one width, since the two halves of a signed range add up to it. -/
theorem upperBound_sub_lowerBound {b : Nat} (h : bitsLegal b = true) (g : Family) :
    upperBound b g - lowerBound b g = 2 ^ b - 1 := by
  have hpow := two_pow_pred ((bitsLegal_iff b).1 h).1
  cases g <;> simp only [upperBound, lowerBound] <;> omega

theorem card_Icc_bounds {b : Nat} (h : bitsLegal b = true) (g : Family) :
    (Finset.Icc (lowerBound b g) (upperBound b g)).card = 2 ^ b := by
  have hwidth := upperBound_sub_lowerBound h g
  have hcount : upperBound b g + 1 - lowerBound b g = ((2 ^ b : Nat) : Int) := by
    push_cast
    omega
  rw [Int.card_Icc, hcount, Int.toNat_natCast]

/-- The width is odd, as `2^bits` is even. -/
theorem width_odd {b : Nat} (h : bitsLegal b = true) (g : Family) :
    (upperBound b g - lowerBound b g) % 2 = 1 := by
  have hpow := two_pow_pred ((bitsLegal_iff b).1 h).1
  rw [upperBound_sub_lowerBound h]
  omega

/-- The signed range of 64 bits goes lowest and the unsigned one highest. -/
theorem bounds_within_extremes {b : Nat} (h : bitsLegal b = true) (g : Family) :
    -(2 ^ 63 - 1) ≤ lowerBound b g ∧ upperBound b g ≤ 2 ^ 64 - 1 := by
  have hpow := two_pow_pred ((bitsLegal_iff b).1 h).1
  have hbounds := two_pow_bounds h
  cases g <;> simp only [lowerBound, upperBound] <;> omega

theorem signedRange_eq {b : Nat} (h : bitsLegal b = true) :
    signedRange b = ⟨-(2 ^ (b - 1) - 1), 2 ^ (b - 1)⟩ := rangeFromBits_eq h .signed

/-- The range is the two's-complement one shifted up by one. -/
theorem signedRange_eq_shifted {b : Nat} (h : bitsLegal b = true) :
    signedRange b = ⟨-2 ^ (b - 1) + 1, 2 ^ (b - 1) - 1 + 1⟩ := by
  rw [signedRange_eq h, Range.mk.injEq]
  omega

/-- Settles O20: each closed form for both families, and the table by evaluation. -/
theorem rangeClosedForms : Obligations.RangeClosedForms := by
  refine ⟨fun b hpos hle => ?_, by decide⟩
  have hb : bitsLegal b = true := (bitsLegal_iff b).2 ⟨hpos, hle⟩
  refine ⟨rfl, signedRange_eq hb, signedRange_eq_shifted hb, fun g => ?_⟩
  have hlt := lowerBound_lt_upperBound hb g
  obtain ⟨hleast, hgreatest⟩ := bounds_within_extremes hb g
  obtain ⟨hlo, hhi⟩ := toInt_enc65_bounds hb g
  rw [rangeFromBits_eq hb]
  exact ⟨upperBound_sub_lowerBound hb g, card_Icc_bounds hb g, Int.sub_pos_of_lt hlt, width_odd hb g,
    hleast, hgreatest, hlo, hhi⟩

end Sys2Proof.Machine
end

section
/-! ## The words of the range queries (R44, R45, R51) -/

namespace Sys2Proof

/-- The command that asks for the range of a family (R63). -/
def Family.query : Family → Nat → Instr
  | .unsigned => .urange
  | .signed => .srange

theorem toNat_encode_query (g : Family) {b : Nat} (h : b ≤ 127) :
    (encode (g.query b)).toNat = 0x5000 + 128 * g.bit + b := by
  have hb : b < 128 := Nat.lt_succ_of_le h
  cases g with
  | unsigned => exact toNat_or_bits 0 rfl hb
  | signed => exact toNat_or_bits 1 rfl hb

theorem decode_of_range_opcode {w : CmdWord} (hop : opField w = 5) :
    decode w = if rsvField w ≠ 0 then .error .reservedBits else decodeRange w := by
  simp [decode, hop]

/-- Opcode 0x5 uses `SGN` and `BITS`: only `RSV` and `POL` can make its word illegal. -/
theorem decode_eq_none_iff_of_range_opcode {w : CmdWord} (hop : opField w = 5) :
    (decode w).toOption = none ↔ rsvField w ≠ 0 ∨ polField w = true := by
  rw [decode_of_range_opcode hop, decodeRange]
  split_ifs with hrsv hpol hsgn
  · exact iff_of_true rfl (.inl hrsv)
  · exact iff_of_true rfl (.inr hpol)
  · exact iff_of_false nofun (not_or.2 ⟨hrsv, hpol⟩)
  · exact iff_of_false nofun (not_or.2 ⟨hrsv, hpol⟩)

end Sys2Proof
end

section
/-! ## The commands URANGE and SRANGE (R64, R65) -/

namespace Sys2Proof.Machine

theorem exec_query (g : Family) (b : Nat) (s : State) :
    exec (g.query b) s = .next (queryRange b g s) := by
  cases g <;> rfl

/-- A query of a legal width writes the response port alone, and its data are the bounds. -/
theorem exec_query_answers (g : Family) {b : Nat} (s : State) (hpos : 1 ≤ b) (hle : b ≤ 64) :
    ∃ lo hi : ValWord, lo.toInt = lowerBound b g ∧ hi.toInt = upperBound b g ∧
      exec (g.query b) s = .next { s with rsp := some ⟨.ok, lo, hi⟩ } := by
  have hb : bitsLegal b = true := (bitsLegal_iff b).2 ⟨hpos, hle⟩
  obtain ⟨hlo, hhi⟩ := toInt_enc65_bounds hb g
  refine ⟨_, _, hlo, hhi, ?_⟩
  rw [exec_query, queryRange_of_legal hb, rangeFromBits_eq hb]
  rfl

theorem bitsLegal_eq_false_iff (b : Nat) : bitsLegal b = false ↔ b = 0 ∨ 65 ≤ b := by
  rw [← Bool.not_eq_true, bitsLegal_iff]
  omega

/-- A query of any other width writes the response port alone, with the refusal (R123). -/
theorem exec_query_refuses (g : Family) {b : Nat} (s : State) (h : b = 0 ∨ 65 ≤ b) :
    exec (g.query b) s = .next { s with rsp := some ⟨.badBits, 0#65, 0#65⟩ } := by
  rw [exec_query, queryRange_of_not_legal ((bitsLegal_eq_false_iff b).2 h)]
  rfl

/-- Settles O18: URANGE is the query of the unsigned family. -/
theorem urangeAnswersTheUnsignedRange : Obligations.UrangeAnswersTheUnsignedRange :=
  ⟨fun _ => exec_query_answers .unsigned, fun _ => exec_query_refuses .unsigned,
    fun _ => toNat_encode_query .unsigned,
    fun _ hop _ => decode_eq_none_iff_of_range_opcode hop⟩

/-- Settles O19: SRANGE is the query of the signed family. -/
theorem srangeAnswersTheSignedRange : Obligations.SrangeAnswersTheSignedRange :=
  ⟨fun _ => exec_query_answers .signed, fun _ => exec_query_refuses .signed,
    fun _ => toNat_encode_query .signed,
    fun _ hop _ => decode_eq_none_iff_of_range_opcode hop⟩

end Sys2Proof.Machine
end

/-! # The normalize core: its four forms and their laws

Proofs of the statements on 41_normalize_core.md. First the remainder and the legal ranges, which
give one expression for both families; then the laws of Wrap and of the two Clamp forms, each form
described once; then the widths of what the datapath computes on the way. -/

section
/-! ## The remainder (R75) -/

namespace Sys2Proof.Machine

theorem dvd_tmod_sub (a n : Int) : n ∣ tmod a n - a := by
  rw [tmod_eq]
  exact Int.dvd_tmod_sub_self

theorem abs_tmod_lt (a : Int) {n : Int} (hn : 0 < n) : |tmod a n| < n := by
  rw [tmod_eq, abs_lt]
  exact ⟨Int.lt_tmod_of_pos a hn, Int.tmod_lt_of_pos a hn⟩

/-- The correction moves a negative remainder up by one modulus, which puts it where the
non-negative remainder is, and the two are congruent. -/
theorem correctRemainder_eq_emod {m a n : Int} (hn : 0 < n) (hdvd : n ∣ m - a) (habs : |m| < n) :
    correctRemainder m n = a % n := by
  obtain ⟨hgt, hlt⟩ := abs_lt.1 habs
  refine ((Int.emod_eq_iff hn.ne').2 ?_).symm
  unfold correctRemainder
  split_ifs with hneg
  · have hcongr : n ∣ m + n - a := by
      rw [add_sub_right_comm]
      exact hdvd.add (dvd_refl n)
    exact ⟨by omega, by omega, hcongr⟩
  · exact ⟨by omega, by omega, hdvd⟩

theorem wrapUnsigned_eq_emod (raw : Int) {hi : Int} (h : 1 ≤ hi) :
    wrapUnsigned raw hi = emod raw hi := by
  rw [wrapUnsigned, correctRemainder_tmod raw h, emod_eq raw hi h]

theorem wrapSigned_eq_add_emod (raw : Int) {lo hi : Int} (h : 1 ≤ hi - lo) :
    wrapSigned raw lo hi = lo + emod (raw - lo) (hi - lo) := by
  rw [wrapSigned, correctRemainder_tmod _ h, emod_eq _ _ h, add_comm]

end Sys2Proof.Machine
end

section
/-! ## Normalize in a derived range (R82, R83) -/

namespace Sys2Proof.Machine

/-- What normalize gives for a configuration the block can hold. -/
theorem normalizeRaw_bounds (raw : Int) {b : Nat} (h : bitsLegal b = true) (g : Family)
    (p : Policy) : normalizeRaw raw (lowerBound b g) (upperBound b g) g p = boundedIn raw b g p :=
  normalizeRaw_eq_boundedImage raw p (lowerBound_lt_upperBound h g) fun hg => by simp [hg]

/-- At one bit both families have the range 0 .. 1. -/
theorem rangeFromBits_one (g : Family) : rangeFromBits 1 g = ⟨0, 1⟩ := by
  cases g <;> rfl

/-- Settles O22: the correction for any remainder; the truncated one of the model is a case. -/
theorem remainderConventionDoesNotMatter : Obligations.RemainderConventionDoesNotMatter := by
  refine ⟨fun rem hrem a n hn => ?_, fun a n hn => ⟨⟨dvd_tmod_sub a n, abs_tmod_lt a hn⟩, ?_⟩,
    fun raw hi => wrapUnsigned_eq_emod raw, fun raw lo hi => wrapSigned_eq_add_emod raw,
    fun raw g => ?_⟩
  · obtain ⟨hdvd, habs⟩ := hrem a n hn
    rw [correctRemainder_eq_emod hn hdvd habs, emod_eq a n hn]
  · rw [emod_eq a n hn]
    exact ⟨⟨Int.emod_nonneg a (by omega), Int.emod_lt_of_pos a hn, Int.dvd_emod_sub_self⟩, rfl⟩
  · rw [rangeFromBits_one, normalizeRaw_eq_boundedImage raw .wrap zero_lt_one fun _ => rfl]
    simp [boundedImage]

/-- Settles O23: with `lo = 0` the family bit chooses between equal forms. -/
theorem familyBitIsRedundant : Obligations.FamilyBitIsRedundant := by
  refine ⟨fun raw hi => ?_, fun raw hi h => ?_, fun raw b g p hpos hle => ?_, fun raw p => ?_⟩
  · simp [clampSigned, clampUnsigned]
  · rw [wrapSigned_eq_add_emod raw (by omega), wrapUnsigned_eq_emod raw h, sub_zero, sub_zero,
      zero_add]
  · have hb := (bitsLegal_iff b).2 ⟨hpos, hle⟩
    rw [rangeFromBits_eq hb]
    exact normalizeRaw_bounds raw hb g p
  · rw [rangeFromBits_one, rangeFromBits_one,
      normalizeRaw_eq_boundedImage raw p zero_lt_one fun _ => rfl,
      normalizeRaw_eq_boundedImage raw p zero_lt_one fun _ => rfl]

/-- Settles O24: normalize is the bounded image, which is in the range. -/
theorem normalizeStaysInRange : Obligations.NormalizeStaysInRange := by
  intro raw b g p hpos hle
  have hb := (bitsLegal_iff b).2 ⟨hpos, hle⟩
  obtain ⟨hge, hmax, hwrap⟩ := boundedImage_mem raw p (lowerBound_lt_upperBound hb g)
  simp only [rangeFromBits_eq hb, normalizeRaw_bounds raw hb]
  exact ⟨hge, hmax, fun hp => Int.le_sub_one_of_lt (hwrap hp)⟩

end Sys2Proof.Machine
end

section
/-! ## Wrap (R84) -/

namespace Sys2Proof.Machine

/-- Wrap is the member of `lo .. hi - 1` congruent to the raw value; the laws of Wrap follow from
this. -/
theorem boundedImage_wrap_eq_iff {raw lo hi y : Int} (h : lo < hi) :
    boundedImage raw lo hi .wrap = y ↔ lo ≤ y ∧ y ≤ hi - 1 ∧ hi - lo ∣ y - raw := by
  have hoffset : boundedImage raw lo hi .wrap = y ↔ (raw - lo) % (hi - lo) = y - lo := by
    simp only [boundedImage]
    omega
  rw [hoffset, Int.emod_eq_iff (by omega), sub_sub_sub_cancel_right]
  omega

theorem boundedImage_wrap_eq_self_iff {raw lo hi : Int} (h : lo < hi) :
    boundedImage raw lo hi .wrap = raw ↔ lo ≤ raw ∧ raw ≤ hi - 1 := by
  simp [boundedImage_wrap_eq_iff h]

/-- `hi` is one width above `lo`. -/
theorem boundedImage_wrap_hi {lo hi : Int} (h : lo < hi) : boundedImage hi lo hi .wrap = lo :=
  (boundedImage_wrap_eq_iff h).2 ⟨le_rfl, by omega, dvd_sub_comm.1 (dvd_refl _)⟩

theorem boundedImage_wrap_add_mul_width (raw k lo hi : Int) :
    boundedImage (raw + k * (hi - lo)) lo hi .wrap = boundedImage raw lo hi .wrap := by
  simp only [boundedImage, add_sub_right_comm, Int.add_mul_emod_self_right]

theorem zero_mem_bounds {b : Nat} (h : bitsLegal b = true) (g : Family) :
    lowerBound b g ≤ 0 ∧ 0 ≤ upperBound b g - 1 := by
  have hpow := two_pow_pred ((bitsLegal_iff b).1 h).1
  have hbounds := two_pow_bounds h
  cases g <;> simp only [lowerBound, upperBound] <;> omega

/-- Settles O25: Wrap gives the congruent member, and each law names that member. -/
theorem wrapLaws : Obligations.WrapLaws := by
  intro b g hpos hle
  have hb := (bitsLegal_iff b).2 ⟨hpos, hle⟩
  have hlt := lowerBound_lt_upperBound hb g
  have hmem := fun raw => (boundedImage_wrap_eq_iff (raw := raw) hlt).1 rfl
  simp only [rangeFromBits_eq hb, normalizeRaw_bounds _ hb, boundedIn]
  refine ⟨fun raw => ⟨hmem raw, fun y hlo hhi hdvd => ?_⟩,
    fun raw => boundedImage_wrap_eq_self_iff hlt, boundedImage_wrap_hi hlt,
    fun raw k => boundedImage_wrap_add_mul_width raw k _ _, upperBound_sub_lowerBound hb g,
    fun raw => ?_, (boundedImage_wrap_eq_self_iff hlt).2 (zero_mem_bounds hb g)⟩
  · exact ((boundedImage_wrap_eq_iff hlt).2 ⟨hlo, hhi, hdvd⟩).symm
  · obtain ⟨hlo, hhi, -⟩ := hmem raw
    exact (boundedImage_wrap_eq_self_iff hlt).2 ⟨hlo, hhi⟩

end Sys2Proof.Machine
end

section
/-! ## Clamp, unsigned form (R71, R85) -/

namespace Sys2Proof.Machine

theorem clampUnsigned_of_neg {raw : Int} (hi : Int) (h : raw < 0) : clampUnsigned raw hi = 0 := by
  unfold clampUnsigned
  omega

theorem clampUnsigned_of_mem {raw hi : Int} (h : 0 ≤ raw) (hle : raw ≤ hi) :
    clampUnsigned raw hi = raw := by
  unfold clampUnsigned
  omega

theorem clampUnsigned_of_lt {raw hi : Int} (hhi : 0 ≤ hi) (h : hi < raw) :
    clampUnsigned raw hi = hi := by
  unfold clampUnsigned
  omega

theorem clampUnsigned_eq_ite (raw : Int) {hi : Int} (hhi : 0 ≤ hi) : clampUnsigned raw hi =
    if raw < 0 then 0 else if raw ≤ hi then raw else hi := by
  split_ifs with hneg hle
  · exact clampUnsigned_of_neg hi hneg
  · exact clampUnsigned_of_mem (by omega) hle
  · exact clampUnsigned_of_lt hhi (by omega)

theorem clampUnsigned_mem (raw : Int) {hi : Int} (hhi : 0 ≤ hi) :
    0 ≤ clampUnsigned raw hi ∧ clampUnsigned raw hi ≤ hi := by
  unfold clampUnsigned
  omega

theorem clampUnsigned_eq_self_iff {raw hi : Int} (hhi : 0 ≤ hi) :
    clampUnsigned raw hi = raw ↔ 0 ≤ raw ∧ raw ≤ hi :=
  ⟨fun h => h ▸ clampUnsigned_mem raw hhi, fun ⟨h, hle⟩ => clampUnsigned_of_mem h hle⟩

theorem clampUnsigned_mono {x y : Int} (hi : Int) (h : x ≤ y) :
    clampUnsigned x hi ≤ clampUnsigned y hi :=
  max_le_max_left 0 (min_le_min_left hi h)

/-- A raw value below or above the range is strictly nearer to the end it is clamped to; one in the
range is at distance 0. -/
theorem clampUnsigned_nearest (raw : Int) {hi y : Int} (hy : 0 ≤ y) (hle : y ≤ hi)
    (hne : y ≠ clampUnsigned raw hi) : |raw - clampUnsigned raw hi| < |raw - y| := by
  have hhi : 0 ≤ hi := hy.trans hle
  rcases lt_or_ge raw 0 with hneg | hnonneg
  · rw [clampUnsigned_of_neg hi hneg] at hne ⊢
    rw [abs_of_nonpos (by omega), abs_of_nonpos (by omega)]
    omega
  rcases le_or_gt raw hi with hmem | habove
  · rw [clampUnsigned_of_mem hnonneg hmem] at hne ⊢
    rw [sub_self, abs_zero, abs_pos]
    omega
  · rw [clampUnsigned_of_lt hhi habove] at hne ⊢
    rw [abs_of_nonneg (by omega), abs_of_nonneg (by omega)]
    omega

/-- Settles O26: the unsigned Clamp of a configuration is `clampUnsigned` at its `hi`. -/
theorem unsignedClampLaws : Obligations.UnsignedClampLaws := by
  intro b hpos hle
  have hb := (bitsLegal_iff b).2 ⟨hpos, hle⟩
  have hhi : 0 ≤ (rangeFromBits b .unsigned).hi := by
    rw [rangeFromBits_eq hb]
    exact (lowerBound_lt_upperBound hb .unsigned).le
  exact ⟨fun raw => clampUnsigned_eq_self_iff hhi, fun x y => clampUnsigned_mono _,
    fun raw => (clampUnsigned_eq_self_iff hhi).2 (clampUnsigned_mem raw hhi),
    fun raw => ⟨clampUnsigned_mem raw hhi, fun y => clampUnsigned_nearest raw⟩⟩

end Sys2Proof.Machine
end

section
/-! ## Clamp, signed form (R72, R86) -/

namespace Sys2Proof.Machine

variable {raw lo hi : Int}

theorem clampSigned_of_nonpos (hlt : lo < hi) (h : raw ≤ 0) : clampSigned raw lo hi = lo := by
  simp only [clampSigned]
  omega

theorem clampSigned_of_mem_width (h : 0 ≤ raw) (hle : raw ≤ hi - lo) :
    clampSigned raw lo hi = lo + raw := by
  simp only [clampSigned]
  omega

theorem clampSigned_of_width_le (hlt : lo < hi) (h : hi - lo ≤ raw) :
    clampSigned raw lo hi = hi := by
  simp only [clampSigned]
  omega

theorem clampSigned_eq_ite (hlt : lo < hi) : clampSigned raw lo hi =
    if raw ≤ 0 then lo else if raw < hi - lo then lo + raw else hi := by
  split_ifs with hnonpos hbelow
  · exact clampSigned_of_nonpos hlt hnonpos
  · exact clampSigned_of_mem_width (by omega) hbelow.le
  · exact clampSigned_of_width_le hlt (by omega)

/-- Between `lo` and the width the usual clamp gives more: `raw` or `hi`, not `lo` or `lo + raw`. -/
theorem clampSigned_eq_clamp_iff (hneg : lo < 0) (hlt : lo < hi) :
    clampSigned raw lo hi = max lo (min hi raw) ↔ raw ≤ lo ∨ hi - lo ≤ raw := by
  rw [clampSigned_eq_ite hlt]
  split_ifs <;> omega

theorem clampSigned_lo_eq_lo_iff (hlt : lo < hi) : clampSigned lo lo hi = lo ↔ lo ≤ 0 := by
  rw [clampSigned_eq_ite hlt]
  split_ifs <;> omega

theorem clampSigned_mono {x y : Int} (lo hi : Int) (h : x ≤ y) :
    clampSigned x lo hi ≤ clampSigned y lo hi :=
  Int.add_le_add_left (max_le_max_left 0 (min_le_min_left (hi - lo) h)) lo

/-- `lo` is the only fixed point, since every positive raw value is moved down. -/
theorem clampSigned_eq_self_iff (hneg : lo < 0) (hlt : lo < hi) :
    clampSigned raw lo hi = raw ↔ raw = lo := by
  rw [clampSigned_eq_ite hlt]
  split_ifs <;> omega

/-- One application brings what is at most `-lo` to 0 or below, hence a second one to `lo`. -/
theorem clampSigned_clampSigned_of_le (hneg : lo < 0) (hlt : lo < hi) (h : raw ≤ -lo) :
    clampSigned (clampSigned raw lo hi) lo hi = lo := by
  have hnonpos : clampSigned raw lo hi ≤ 0 := by
    rw [clampSigned_eq_ite hlt]
    split_ifs <;> omega
  exact clampSigned_of_nonpos hlt hnonpos

/-- `hi` is below the width, so one application adds `lo` to it. -/
theorem clampSigned_hi (hneg : lo < 0) (hhi : hi = -lo + 1) : clampSigned hi lo hi = 1 := by
  rw [clampSigned_of_mem_width (by omega) (by omega)]
  omega

/-- A member of the range comes to at most `-lo`, so a third application gives `lo`. -/
theorem clampSigned_three_of_le_hi (hneg : lo < 0) (hhi : hi = -lo + 1) (h : raw ≤ hi) :
    clampSigned (clampSigned (clampSigned raw lo hi) lo hi) lo hi = lo := by
  have hle : clampSigned raw lo hi ≤ clampSigned hi lo hi := clampSigned_mono lo hi h
  rw [clampSigned_hi hneg hhi] at hle
  exact clampSigned_clampSigned_of_le hneg (by omega) (by omega)

/-- Every result is a member of the range, so a fourth application gives `lo`. -/
theorem clampSigned_four (raw : Int) (hneg : lo < 0) (hhi : hi = -lo + 1) :
    clampSigned (clampSigned (clampSigned (clampSigned raw lo hi) lo hi) lo hi) lo hi = lo := by
  have hlt : lo < hi := by omega
  obtain ⟨-, hle, -⟩ := boundedImage_mem raw .clamp hlt
  exact clampSigned_three_of_le_hi hneg hhi hle

/-- A signed range of two bits or more reaches below 0, and one further up than down. -/
theorem signed_bounds_of_two_le {b : Nat} (htwo : 2 ≤ b) :
    lowerBound b .signed < 0 ∧ upperBound b .signed = -lowerBound b .signed + 1 := by
  have hpow : (2 : Int) ^ 1 ≤ 2 ^ (b - 1) := pow_le_pow_right₀ (by decide) (by omega)
  simp only [lowerBound, upperBound]
  omega

end Sys2Proof.Machine
end

section
/-! ## The statements on Clamp -/

namespace Sys2Proof.Machine

/-- Settles O21: the unsigned form is the raw value or an end of the range; the signed form is `lo`,
`lo + raw` or `hi`. -/
theorem clampFormsByCases : Obligations.ClampFormsByCases :=
  ⟨fun raw _ => clampUnsigned_eq_ite raw, fun _ _ _ hlt => ⟨clampSigned_eq_ite hlt,
    fun hneg => clampSigned_eq_clamp_iff hneg hlt, clampSigned_lo_eq_lo_iff hlt⟩⟩

/-- Settles O27: the laws of `clampSigned` in a range with `lo < 0` and `hi = -lo + 1`. -/
theorem signedClampLaws : Obligations.SignedClampLaws := by
  intro b htwo hle
  have hb := (bitsLegal_iff b).2 ⟨by omega, hle⟩
  obtain ⟨hneg, hhi⟩ := signed_bounds_of_two_le htwo
  simp only [rangeFromBits_eq hb, normalizeRaw, rangeClampSaturator]
  generalize lowerBound b .signed = lo, upperBound b .signed = hi at hneg hhi ⊢
  have hlt : lo < hi := by omega
  have hone : clampSigned 1 lo hi = lo + 1 := by
    rw [clampSigned_of_mem_width (by omega) (by omega)]
  have hhiOne := clampSigned_hi hneg hhi
  have honeTwice : clampSigned (clampSigned 1 lo hi) lo hi = lo :=
    clampSigned_clampSigned_of_le hneg hlt (by omega)
  refine ⟨⟨hneg, hhi, by omega⟩, ⟨fun x y => clampSigned_mono lo hi,
    fun raw => clampSigned_of_nonpos hlt, fun raw => clampSigned_of_width_le hlt⟩,
    ⟨fun raw => clampSigned_eq_self_iff hneg hlt, clampSigned_of_nonpos hlt le_rfl, hhiOne⟩,
    ⟨hone, honeTwice, by omega⟩, ⟨fun raw => clampSigned_four raw hneg hhi, ?_, ?_, ?_, ?_⟩, ?_⟩
  · exact clampSigned_of_nonpos hlt hneg.le
  · exact fun y _ hy => clampSigned_of_nonpos hlt hy
  · intro y hpos hy
    have hmove : clampSigned y lo hi = lo + y := clampSigned_of_mem_width hpos.le (by omega)
    exact ⟨by omega, by omega, clampSigned_clampSigned_of_le hneg hlt hy⟩
  · refine ⟨hhiOne, ?_, clampSigned_three_of_le_hi hneg hhi le_rfl⟩
    rw [hhiOne, hone]
    omega
  · intro raw hlow hbelow
    rw [clampSigned_of_mem_width (by omega) hbelow.le]
    omega

end Sys2Proof.Machine
end

section
/-! ## The widths of the datapath (R87) -/

namespace Sys2Proof.Machine

/-- The operand bus holds a signed number of 128 bits (R43). -/
theorem rawBus_toInt_bounds (d : RawBus) : -2 ^ 127 ≤ d.toInt ∧ d.toInt < 2 ^ 127 :=
  ⟨d.le_toInt, d.toInt_lt⟩

theorem width_bounds {b : Nat} (h : bitsLegal b = true) (g : Family) :
    1 ≤ upperBound b g - lowerBound b g ∧ upperBound b g - lowerBound b g ≤ 2 ^ 64 - 1 := by
  have hbounds := two_pow_bounds h
  rw [upperBound_sub_lowerBound h]
  omega

/-- Settles O28: the operand and the range are bounded, a remainder is smaller than the width, and
the result is a member of the range. -/
theorem normalizeFitsTheRegisters : Obligations.NormalizeFitsTheRegisters := by
  intro d b g p hpos hle
  have hb := (bitsLegal_iff b).2 ⟨hpos, hle⟩
  have hdata := rawBus_toInt_bounds d
  have ⟨hone, hfits⟩ := width_bounds hb g
  have ⟨hzero, _⟩ := zero_mem_bounds hb g
  have ⟨hleast, hgreatest⟩ := bounds_within_extremes hb g
  have ⟨hge, hmax, _⟩ := boundedImage_mem d.toInt p (lowerBound_lt_upperBound hb g)
  have hread := enc65_boundedIn_toInt d.toInt hb g p
  simp only [rangeFromBits_eq hb, normalizeRaw_bounds d.toInt hb,
    correctRemainder_tmod _ hone]
  generalize hoffset : d.toInt - lowerBound b g = offset,
    hw : upperBound b g - lowerBound b g = w at hone hfits ⊢
  obtain ⟨hmgt, hmlt⟩ := abs_lt.1 (abs_tmod_lt offset hone)
  have hnonneg := Int.emod_nonneg offset (show w ≠ 0 by omega)
  have hmod := Int.emod_lt_of_pos offset hone
  exact ⟨⟨hone, hfits⟩, by omega, by omega, by omega, by omega, by omega,
    ⟨hleast.trans hge, hmax.trans hgreatest⟩, hread⟩

end Sys2Proof.Machine
end

/-! # The value access: construction, SET, GET, and what repeated reads return

Proofs of the statements on 42_value_access.md. First the words of the four commands; then a
construction and an access of `VAL` as whole states; then runs of GETs, which rest on the values that
normalize fixes and, for the signed Clamp, on the way down to `LO`. -/

section
/-! ## The words of the value commands (R44, R45) -/

namespace Sys2Proof

theorem opField_of_decode {w : CmdWord} {i : Instr} (h : decode w = .ok i) :
    opField w = i.fields.op := congrArg CommandFields.op (fieldsOf_of_decode h)

theorem toNat_encode_cons (p : Policy) (g : Family) {b : Nat} (h : b ≤ 127) :
    (encode (.cons p g b)).toNat = 0x1000 + p.bit * 256 + g.bit * 128 + b := by
  have hword := toNat_or_configBits 1 (x := 0x1000#16) rfl p g (Nat.lt_succ_of_le h)
  simp only [encode, hword, CommandFields.number]
  omega

theorem toNat_encode_consz (p : Policy) (g : Family) {b : Nat} (h : b ≤ 127) :
    (encode (.consz p g b)).toNat = 0x2000 + p.bit * 256 + g.bit * 128 + b := by
  have hword := toNat_or_configBits 2 (x := 0x2000#16) rfl p g (Nat.lt_succ_of_le h)
  simp only [encode, hword, CommandFields.number]
  omega

/-- Opcodes 0x1 and 0x2 use every field but `RSV`, so only `RSV` can make their words illegal. -/
theorem decode_eq_none_iff_of_construction_opcode {w : CmdWord}
    (hop : opField w = 1 ∨ opField w = 2) : (decode w).toOption = none ↔ rsvField w ≠ 0 := by
  by_cases hrsv : rsvField w = 0
  · obtain ⟨i, hd⟩ : ∃ i, decode w = .ok i := by
      obtain hop | hop := hop <;> simp [decode, hop, hrsv]
    rw [hd]
    exact iff_of_false nofun (not_not.2 hrsv)
  · have hd : decode w = .error .reservedBits := if_pos (by simpa using hrsv)
    rw [hd]
    exact iff_of_true rfl hrsv

theorem construction_of_decode {w : CmdWord} {i : Instr} (hop : opField w = 1 ∨ opField w = 2)
    (h : decode w = .ok i) : ∃ p g b, i = .cons p g b ∨ i = .consz p g b := by
  rw [opField_of_decode h] at hop
  cases i with
  | cons p g b => exact ⟨p, g, b, .inl rfl⟩
  | consz p g b => exact ⟨p, g, b, .inr rfl⟩
  | set | get | urange b | srange b => simp [Instr.fields] at hop

/-- SET and GET are alone at their opcodes. -/
theorem eq_of_op_eq_access {i j : Instr} (hi : i = .set ∨ i = .get)
    (h : j.fields.op = i.fields.op) : j = i := by
  obtain rfl | rfl := hi <;> cases j <;> simp_all [Instr.fields]

/-- SET and GET use no field, so each has one word. -/
theorem decode_eq_none_iff_of_access_opcode {i : Instr} (hi : i = .set ∨ i = .get) {w : CmdWord}
    (hop : opField w = i.fields.op) : (decode w).toOption = none ↔ w ≠ encode i := by
  have hround : decode (encode i) = .ok i :=
    decodeOfEncodeReturnsTheCommand i (by obtain rfl | rfl := hi <;> rfl)
  refine ⟨fun hnone hw => ?_, fun hne => ?_⟩
  · rw [hw, hround] at hnone
    cases hnone
  · cases hd : decode w with
    | error e => rfl
    | ok j =>
      obtain rfl := eq_of_op_eq_access hi ((opField_of_decode hd).symm.trans hop)
      exact absurd (encodeOfDecodeReturnsTheWord w j hd).2.symm hne

end Sys2Proof
end

section
/-! ## A construction and an access as whole states (R91 to R94, R96) -/

namespace Sys2Proof.Machine

/-- What normalize gives with the registers of `CFG` is read back from `VAL` (R87). -/
theorem enc65_normalizeHere_toInt {s : State} (h : s.Configured) (raw : Int) :
    (enc65 (normalizeHere raw s)).toInt = normalizeHere raw s := by
  have ⟨hbits, _, _⟩ := h
  rw [normalizeHere_eq_boundedIn h, enc65_boundedIn_toInt raw hbits]

/-- Where `CONSTRUCTED` is 1 the bounded image is stored and returned, and nothing else changes. -/
theorem accessValue_answers {s : State} (hc : s.constructed = true) (hconf : s.Configured)
    (raw : Int) :
    ∃ y : ValWord, y.toInt = boundedIn raw s.cfg.bits.toNat s.cfg.sgn s.cfg.pol ∧
      accessValue raw s = { s with val := y, rsp := some ⟨.ok, y, 0#65⟩ } := by
  refine ⟨enc65 (normalizeHere raw s), ?_, accessValue_of_constructed hc raw⟩
  rw [enc65_normalizeHere_toInt hconf, normalizeHere_eq_boundedIn hconf]

/-- The old `VAL` is overwritten, and is read only where it is the raw value. -/
theorem accessValue_withVal {s : State} (hc : s.constructed = true) (raw : Int) (v : ValWord) :
    accessValue raw { s with val := v } = accessValue raw s := by
  have hcv : ({ s with val := v } : State).constructed = true := hc
  rw [accessValue_of_constructed hc, accessValue_of_constructed hcv]
  rfl

theorem accessValue_refuses {s : State} (hc : s.constructed = false) (raw : Int) :
    accessValue raw s = { s with rsp := some ⟨.notConstructed, 0#65, 0#65⟩ } :=
  accessValue_of_not_constructed hc raw

/-- A construction with a legal width: all five registers and the response. -/
theorem construct_answers {b : Nat} (hb : bitsLegal b = true) (g : Family) (p : Policy) (raw : Int)
    (s : State) :
    ∃ lo hi y : ValWord, lo.toInt = lowerBound b g ∧ hi.toInt = upperBound b g ∧
      y.toInt = boundedIn raw b g p ∧
      construct b g p raw s =
        { s with
          constructed := true, cfg := ⟨BitVec.ofNat 7 b, g, p⟩, lo := lo, hi := hi, val := y,
          rsp := some ⟨.ok, y, 0#65⟩ } := by
  obtain ⟨hlo, hhi⟩ := toInt_enc65_bounds hb g
  refine ⟨_, _, enc65 (boundedIn raw b g p), hlo, hhi, enc65_boundedIn_toInt raw hb g p, ?_⟩
  rw [construct_of_legal hb, rangeFromBits_eq hb, normalizeRaw_bounds raw hb]
  rfl

theorem construct_refuses {b : Nat} (h : b = 0 ∨ 65 ≤ b) (g : Family) (p : Policy) (raw : Int)
    (s : State) : construct b g p raw s = { s with rsp := some ⟨.badBits, 0#65, 0#65⟩ } :=
  construct_of_not_legal ((bitsLegal_eq_false_iff b).2 h) g p raw s

/-- A construction keeps the operand bus and reads none of it but the raw value it is given. -/
theorem construct_cmdData_zero (b : Nat) (g : Family) (p : Policy) (raw : Int) (s : State) :
    construct b g p raw s =
      { construct b g p raw { s with cmdData := 0 } with cmdData := s.cmdData } := by
  cases h : bitsLegal b with
  | true => simp only [construct_of_legal h]; rfl
  | false => simp only [construct_of_not_legal h]; rfl

/-- A construction with a legal width reads no register and no earlier response. -/
theorem construct_eq_of_same_ports {b : Nat} (hb : bitsLegal b = true) (g : Family) (p : Policy)
    (raw : Int) {s s' : State} (hdata : s.cmdData = s'.cmdData) (hhost : s.host = s'.host) :
    construct b g p raw s = construct b g p raw s' := by
  rw [construct_of_legal hb, construct_of_legal hb]
  simp only [commitValue, respond, configure, hdata, hhost]

/-- A construction from 0 stores 0, but the signed Clamp measures its operand from `lo` (R92). -/
theorem boundedIn_zero {b : Nat} (hb : bitsLegal b = true) (g : Family) (p : Policy) :
    boundedIn 0 b g p = if g = .signed ∧ p = .clamp then lowerBound b g else 0 := by
  have hlt := lowerBound_lt_upperBound hb g
  cases p with
  | wrap =>
    rw [if_neg (by simp)]
    exact (boundedImage_wrap_eq_self_iff hlt).2 (zero_mem_bounds hb g)
  | clamp =>
    have hlo : boundedIn 0 b g .clamp = lowerBound b g := clampSigned_of_nonpos hlt le_rfl
    cases g with
    | unsigned => simpa using hlo
    | signed => simpa using hlo

/-- Settles O14: CONS is `construct` with the operand on the bus. -/
theorem consConstructsAnInstance : Obligations.ConsConstructsAnInstance :=
  ⟨fun p g b s hpos hle => by
    obtain ⟨lo, hi, y, hlo, hhi, hy, hnext⟩ :=
      construct_answers ((bitsLegal_iff b).2 ⟨hpos, hle⟩) g p (dataOperand s) s
    exact ⟨lo, hi, y, hlo, hhi, hy, congrArg _ hnext⟩,
  fun p g _ s hb => congrArg _ (construct_refuses hb g p (dataOperand s) s),
  fun p g _ => toNat_encode_cons p g,
  fun _ hop => decode_eq_none_iff_of_construction_opcode (.inl hop)⟩

/-- Settles O15: CONSZ is `construct` with the raw value 0, whatever is on the bus. -/
theorem conszConstructsFromZero : Obligations.ConszConstructsFromZero :=
  ⟨fun p g b s hpos hle => by
    have hb := (bitsLegal_iff b).2 ⟨hpos, hle⟩
    obtain ⟨lo, hi, y, hlo, hhi, hy, hnext⟩ := construct_answers hb g p 0 s
    exact ⟨lo, hi, y, hlo, hhi, hy.trans (boundedIn_zero hb g p), congrArg _ hnext⟩,
  fun p g b s => ⟨_, rfl, congrArg _ (construct_cmdData_zero b g p 0 s)⟩,
  fun p g _ => toNat_encode_consz p g,
  fun _ hop => decode_eq_none_iff_of_construction_opcode (.inr hop)⟩

/-- Settles O16: SET is an access with the operand on the bus, which the old `VAL` does not reach. -/
theorem setStoresTheBoundedOperand : Obligations.SetStoresTheBoundedOperand := by
  refine ⟨fun s hs hc => ?_, fun s hc => congrArg _ (accessValue_refuses hc (dataOperand s)),
    fun s v hc => congrArg Host.Outcome.next (accessValue_withVal hc (dataOperand s) v), rfl,
    fun w => decode_eq_none_iff_of_access_opcode (.inl rfl)⟩
  obtain ⟨y, hy, hnext⟩ := accessValue_answers hc (consistent_iff.1 hs hc).1 (dataOperand s)
  exact ⟨y, hy, congrArg _ hnext⟩

/-- Settles O17: GET is an access with the old `VAL`. -/
theorem getRenormalizesTheValue : Obligations.GetRenormalizesTheValue := by
  refine ⟨fun s hs hc => ?_, fun s hc => congrArg _ (accessValue_refuses hc (sint65 s.val)), rfl,
    fun w => decode_eq_none_iff_of_access_opcode (.inr rfl)⟩
  obtain ⟨y, hy, hnext⟩ := accessValue_answers hc (consistent_iff.1 hs hc).1 (sint65 s.val)
  exact ⟨y, hy, congrArg _ hnext⟩

/-- A construction whose word does not construct is refused: the word is illegal, or its width is. -/
theorem refused_construction_sameRegisters {s : State} {w : CmdWord} {d : RawBus}
    {rest : List HostEvent} (hs : s.host = .command w d :: rest)
    (hop : opField w = 1 ∨ opField w = 2) (hc : constructs w = false) :
    ∃ t, step s = .next t ∧ t.SameRegisters s := by
  cases hd : decode w with
  | error e => exact ⟨_, step_of_decode_error hs hd, raiseRefusal_sameRegisters _ (accept d rest s)⟩
  | ok i =>
    obtain ⟨p, g, b, hi⟩ := construction_of_decode hop hd
    have hb : bitsLegal b = false := Bool.eq_false_iff.2 fun hb =>
      Bool.eq_false_iff.1 hc ((constructs_iff w).2 ⟨p, g, b, by simpa [hd] using hi, hb⟩)
    have hexec : exec i (accept d rest s) = .next (raiseRefusal .badBits (accept d rest s)) := by
      obtain rfl | rfl := hi <;> exact congrArg _ (construct_of_not_legal hb g p _ _)
    exact ⟨_, (step_of_decode_ok hs hd).trans hexec, raiseRefusal_sameRegisters _ (accept d rest s)⟩

/-- Settles O38: a construction reads the two ports alone, and a refusal writes no register. -/
theorem reconstructionForgetsTheOldInstance : Obligations.ReconstructionForgetsTheOldInstance := by
  refine ⟨fun p g b s s' hdata hhost hpos hle i hi => ?_,
    fun s w d rest => refused_construction_sameRegisters⟩
  have hb := (bitsLegal_iff b).2 ⟨hpos, hle⟩
  have hsame := fun raw => construct_eq_of_same_ports hb g p raw hdata hhost
  have hoperand : dataOperand s = dataOperand s' := congrArg BitVec.toInt hdata
  simp only [List.mem_cons, List.not_mem_nil, or_false] at hi
  obtain rfl | rfl := hi
  · refine ⟨_, rfl, ?_, construct_constructed hb g p (dataOperand s) s⟩
    rw [hsame, hoperand]
    rfl
  · refine ⟨_, rfl, ?_, construct_constructed hb g p 0 s⟩
    rw [hsame]
    rfl

end Sys2Proof.Machine
end

section
/-! ## What a served SET or GET leaves -/

namespace Sys2Proof.Machine

/-- The block after it has served an access of `VAL` with a raw value, `d` on the operand bus. -/
def served (d : RawBus) (raw : Int) (s : State) : State := accept d [] (accessValue raw s)

theorem serve_of_exec {w : CmdWord} {d : RawBus} {i : Instr} {s t : State} (hd : decode w = .ok i)
    (h : exec i (accept d [] s) = .next t) : serve (.command w d) s = t :=
  after_of_step ((step_of_decode_ok rfl hd).trans h)

theorem serve_set (x : RawBus) (s : State) :
    serve (.command 0x3000#16 x) s = served x x.toInt s :=
  (serve_of_exec (decodeOfEncodeReturnsTheCommand .set rfl) rfl).trans (accessValue_accept _ x [] s)

theorem serve_get (d : RawBus) (s : State) :
    serve (.command 0x4000#16 d) s = served d s.val.toInt s :=
  (serve_of_exec (decodeOfEncodeReturnsTheCommand .get rfl) rfl).trans (accessValue_accept _ d [] s)

theorem served_sameConfiguration (d : RawBus) (raw : Int) (s : State) :
    (served d raw s).SameConfiguration s := accessValue_sameConfiguration raw s

theorem served_consistent {s : State} (hs : s.Consistent) (d : RawBus) (raw : Int) :
    (served d raw s).Consistent :=
  consistent_of_sameRegisters (accept_sameRegisters d [] _)
    (accessValue_consistent (fun hc => (consistent_iff.1 hs hc).1) raw)

theorem served_val {s : State} (hc : s.constructed = true) (d : RawBus) (raw : Int) :
    (served d raw s).val = enc65 (normalizeHere raw s) := by
  rw [served, accessValue_of_constructed hc, accept_val, commitValue_val]

theorem served_val_toInt {s : State} (hc : s.constructed = true) (hconf : s.Configured) (d : RawBus)
    (raw : Int) : (served d raw s).val.toInt = normalizeHere raw s := by
  rw [served_val hc, enc65_normalizeHere_toInt hconf]

theorem served_lo (d : RawBus) (raw : Int) (s : State) : (served d raw s).lo = s.lo := by
  obtain ⟨-, -, hlo, -⟩ := served_sameConfiguration d raw s
  exact hlo

theorem served_rsp {s : State} (hc : s.constructed = true) (d : RawBus) (raw : Int) :
    (served d raw s).rsp = some ⟨.ok, (served d raw s).val, 0#65⟩ := by
  rw [served, accessValue_of_constructed hc]
  rfl

/-- Normalize reads no register but those of the configuration. -/
theorem normalizeHere_of_sameConfiguration {s t : State} (h : t.SameConfiguration s) (raw : Int) :
    normalizeHere raw t = normalizeHere raw s := by
  obtain ⟨-, hcfg, hlo, hhi⟩ := h
  rw [normalizeHere, normalizeHere, hcfg, hlo, hhi]

theorem served_valueInRange {s : State} (hs : s.Consistent) (hc : s.constructed = true) (d : RawBus)
    (raw : Int) : (served d raw s).ValueInRange := by
  obtain ⟨hconstructed, -⟩ := served_sameConfiguration d raw s
  exact (consistent_iff.1 (served_consistent hs d raw) (hconstructed.trans hc)).2

end Sys2Proof.Machine
end

section
/-! ## Runs of GETs (R98) -/

namespace Sys2Proof.Machine

/-- The values that `n` GETs return. -/
def readings (n : Nat) (d : RawBus) (s : State) : List Int :=
  (serveAll (gets n d) s).2.map fun r => r.data0.toInt

theorem serveAll_gets_succ {s : State} (hc : s.constructed = true) (n : Nat) (d : RawBus) :
    serveAll (gets (n + 1) d) s =
      ((serveAll (gets n d) (served d s.val.toInt s)).1,
        ⟨.ok, (served d s.val.toInt s).val, 0#65⟩ ::
          (serveAll (gets n d) (served d s.val.toInt s)).2) := by
  rw [gets, List.replicate_succ, serveAll, serve_get, served_rsp hc]
  rfl

theorem readings_succ {s : State} (hc : s.constructed = true) (n : Nat) (d : RawBus) :
    readings (n + 1) d s =
      (served d s.val.toInt s).val.toInt :: readings n d (served d s.val.toInt s) := by
  rw [readings, serveAll_gets_succ hc, List.map_cons, readings]

theorem serveAll_gets_length (n : Nat) (d : RawBus) (s : State) :
    (serveAll (gets n d) s).2.length = n := by
  simp [serveAll_responses_length, gets, List.countP_replicate, HostEvent.isCommand]

theorem serveAll_gets_ok {s : State} (hc : s.constructed = true) (n : Nat) (d : RawBus) :
    ∀ r ∈ (serveAll (gets n d) s).2, r.status = .ok ∧ r.data1 = 0#65 := by
  induction n generalizing s with
  | zero => exact nofun
  | succ n ih =>
    obtain ⟨hconstructed, -⟩ := served_sameConfiguration d s.val.toInt s
    rw [serveAll_gets_succ hc]
    exact List.forall_mem_cons.2 ⟨⟨rfl, rfl⟩, ih (hconstructed.trans hc)⟩

/-- A GET of a value that normalize fixes leaves the value. -/
theorem served_val_of_fixed {s : State} (hc : s.constructed = true)
    (hfix : normalizeHere s.val.toInt s = s.val.toInt) (d : RawBus) :
    (served d s.val.toInt s).val = s.val := by
  rw [served_val hc, hfix, enc65, BitVec.ofInt_toInt]

/-- GETs of a value that normalize fixes all return it and leave it. -/
theorem serveAll_gets_of_fixed {s : State} (hc : s.constructed = true)
    (hfix : normalizeHere s.val.toInt s = s.val.toInt) (n : Nat) (d : RawBus) :
    (serveAll (gets n d) s).1.val = s.val ∧
      (serveAll (gets n d) s).2 = List.replicate n ⟨.ok, s.val, 0#65⟩ := by
  induction n generalizing s with
  | zero => exact ⟨rfl, rfl⟩
  | succ n ih =>
    have hconf := served_sameConfiguration d s.val.toInt s
    have ⟨hconstructed, _⟩ := hconf
    have hval := served_val_of_fixed hc hfix d
    have hfix' : normalizeHere (served d s.val.toInt s).val.toInt (served d s.val.toInt s) =
        (served d s.val.toInt s).val.toInt := by
      rw [normalizeHere_of_sameConfiguration hconf, hval, hfix]
    obtain ⟨hlast, hall⟩ := ih (hconstructed.trans hc) hfix'
    rw [serveAll_gets_succ hc, List.replicate_succ]
    exact ⟨hlast.trans hval, by rw [hall, hval]⟩

theorem readings_of_fixed {s : State} (hc : s.constructed = true)
    (hfix : normalizeHere s.val.toInt s = s.val.toInt) (n : Nat) (d : RawBus) :
    readings n d s = List.replicate n s.val.toInt := by
  obtain ⟨-, hall⟩ := serveAll_gets_of_fixed hc hfix n d
  rw [readings, hall, List.map_replicate]

end Sys2Proof.Machine
end

section
/-! ## Values that a GET does not change -/

namespace Sys2Proof.Machine

/-- Every Clamp but the signed one of two bits or more has a range from 0. -/
theorem lo_eq_zero_of_not_signedClamp {s : State} (hconf : s.Configured) (hns : ¬ s.SignedClamp)
    (hp : s.cfg.pol = .clamp) : s.lo.toInt = 0 := by
  obtain ⟨hbits, hlo, -⟩ := hconf
  rw [hlo]
  cases hg : s.cfg.sgn with
  | unsigned => rfl
  | signed =>
    have hlegal := (bitsLegal_iff _).1 hbits
    have hnarrow : ¬ 2 ≤ s.cfg.bits.toNat := fun htwo => hns ⟨hg, hp, htwo⟩
    obtain hone : s.cfg.bits.toNat = 1 := by omega
    rw [hone]
    rfl

/-- A member of the range is fixed by every form but the signed Clamp of two bits or more. -/
theorem normalizeHere_val_of_not_signedClamp {s : State} (hs : s.Consistent)
    (hc : s.constructed = true) (hns : ¬ s.SignedClamp) :
    normalizeHere s.val.toInt s = s.val.toInt := by
  obtain ⟨hconf, hge, hle, hwrap⟩ := consistent_iff.1 hs hc
  have ⟨_, hlo, hhi⟩ := hconf
  rw [normalizeHere_eq_boundedIn hconf, boundedIn, ← hlo, ← hhi]
  cases hp : s.cfg.pol with
  | wrap =>
    have hlt := hwrap hp
    exact (boundedImage_wrap_eq_self_iff (hge.trans_lt hlt)).2 ⟨hge, Int.le_sub_one_of_lt hlt⟩
  | clamp =>
    have hzero := lo_eq_zero_of_not_signedClamp hconf hns hp
    simp only [boundedImage]
    omega

end Sys2Proof.Machine
end

section
/-! ## GETs of the signed Clamp (R86, R98) -/

namespace Sys2Proof.Machine

/-- A constructed signed Clamp with the bounds of its configuration. -/
structure State.ClampsSigned (s : State) : Prop where
  constructed : s.constructed = true
  configured : s.Configured
  signedClamp : s.SignedClamp

variable {s : State}

theorem State.ClampsSigned.bounds (h : s.ClampsSigned) :
    s.lo.toInt < 0 ∧ s.hi.toInt = -s.lo.toInt + 1 := by
  obtain ⟨hg, -, htwo⟩ := h.signedClamp
  obtain ⟨-, hlo, hhi⟩ := h.configured
  rw [hlo, hhi, hg]
  exact signed_bounds_of_two_le htwo

theorem State.ClampsSigned.lo_lt_hi (h : s.ClampsSigned) : s.lo.toInt < s.hi.toInt := by
  obtain ⟨hneg, heq⟩ := h.bounds
  omega

theorem State.ClampsSigned.normalizeHere_eq (h : s.ClampsSigned) (raw : Int) :
    normalizeHere raw s = clampSigned raw s.lo.toInt s.hi.toInt := by
  obtain ⟨hg, hp, -⟩ := h.signedClamp
  rw [normalizeHere, hg, hp]
  rfl

theorem State.ClampsSigned.keeps (h : s.ClampsSigned) (d : RawBus) (raw : Int) :
    (served d raw s).ClampsSigned := by
  obtain ⟨hconstructed, hcfg, hlo, hhi⟩ := served_sameConfiguration d raw s
  refine ⟨hconstructed.trans h.constructed, ?_, ?_⟩
  · rw [State.Configured, hcfg, hlo, hhi]
    exact h.configured
  · rw [State.SignedClamp, hcfg]
    exact h.signedClamp

theorem State.ClampsSigned.val_eq (h : s.ClampsSigned) (d : RawBus) (raw : Int) :
    (served d raw s).val.toInt = clampSigned raw s.lo.toInt s.hi.toInt := by
  rw [served_val_toInt h.constructed h.configured, h.normalizeHere_eq]

/-- At `LO` every GET returns `LO`. -/
theorem State.ClampsSigned.gets_of_lo (h : s.ClampsSigned) (hy : s.val = s.lo) (n : Nat)
    (d : RawBus) : readings n d s = List.replicate n s.lo.toInt ∧
      (serveAll (gets n d) s).1.val = s.lo := by
  have hfix : normalizeHere s.val.toInt s = s.val.toInt := by
    obtain ⟨hneg, -⟩ := h.bounds
    rw [h.normalizeHere_eq, hy, clampSigned_of_nonpos h.lo_lt_hi hneg.le]
  obtain ⟨hlast, -⟩ := serveAll_gets_of_fixed h.constructed hfix n d
  exact ⟨hy ▸ readings_of_fixed h.constructed hfix n d, hlast.trans hy⟩

/-- At 0 or below one GET comes to `LO`. -/
theorem State.ClampsSigned.gets_of_nonpos (h : s.ClampsSigned) (hy : s.val.toInt ≤ 0) (n : Nat)
    (d : RawBus) : readings n d s = List.replicate n s.lo.toInt ∧
      (1 ≤ n → (serveAll (gets n d) s).1.val = s.lo) := by
  cases n with
  | zero => exact ⟨rfl, nofun⟩
  | succ n =>
    have hlo := served_lo d s.val.toInt s
    have hval : (served d s.val.toInt s).val.toInt = s.lo.toInt := by
      rw [h.val_eq, clampSigned_of_nonpos h.lo_lt_hi hy]
    obtain ⟨hread, hlast⟩ := (h.keeps d s.val.toInt).gets_of_lo
      ((BitVec.toInt_inj.1 hval).trans hlo.symm) n d
    rw [readings_succ h.constructed, serveAll_gets_succ h.constructed, hval, hread, hlo]
    exact ⟨rfl, fun _ => hlast.trans hlo⟩

/-- Above 0, at `-LO` or below, the first GET comes to 0 or below. -/
theorem State.ClampsSigned.gets_of_le_neg_lo (h : s.ClampsSigned) (hpos : 0 < s.val.toInt)
    (hy : s.val.toInt ≤ -s.lo.toInt) (n : Nat) (d : RawBus) :
    readings n d s = ((s.val.toInt + s.lo.toInt) :: List.replicate n s.lo.toInt).take n ∧
      (2 ≤ n → (serveAll (gets n d) s).1.val = s.lo) := by
  cases n with
  | zero => exact ⟨rfl, nofun⟩
  | succ n =>
    have hlo := served_lo d s.val.toInt s
    have ⟨_, heq⟩ := h.bounds
    have hval : (served d s.val.toInt s).val.toInt = s.val.toInt + s.lo.toInt := by
      rw [h.val_eq, clampSigned_of_mem_width hpos.le (by omega), add_comm]
    obtain ⟨hread, hlast⟩ := (h.keeps d s.val.toInt).gets_of_nonpos (by omega) n d
    rw [readings_succ h.constructed, serveAll_gets_succ h.constructed, hval, hread, hlo]
    exact ⟨by simp [List.take_replicate], fun hn => (hlast (by omega)).trans hlo⟩

/-- At `HI` the first GET comes to 1. -/
theorem State.ClampsSigned.gets_of_hi (h : s.ClampsSigned) (hy : s.val.toInt = s.hi.toInt) (n : Nat)
    (d : RawBus) :
    readings n d s = (1 :: (1 + s.lo.toInt) :: List.replicate n s.lo.toInt).take n ∧
      (3 ≤ n → (serveAll (gets n d) s).1.val = s.lo) := by
  cases n with
  | zero => exact ⟨rfl, nofun⟩
  | succ n =>
    have hlo := served_lo d s.val.toInt s
    have ⟨hneg, heq⟩ := h.bounds
    have hval : (served d s.val.toInt s).val.toInt = 1 := by
      rw [h.val_eq, hy, clampSigned_hi hneg heq]
    obtain ⟨hread, hlast⟩ := (h.keeps d s.val.toInt).gets_of_le_neg_lo (by omega)
      (by rw [hlo]; omega) n d
    rw [readings_succ h.constructed, serveAll_gets_succ h.constructed, hread, hval, hlo]
    refine ⟨?_, fun hn => (hlast (by omega)).trans hlo⟩
    cases n with
    | zero => rfl
    | succ n =>
      have hle : n ≤ n + 1 + 1 := by omega
      simp [List.take_replicate, hle]

/-- Every member of the range is of one of the three kinds, so three GETs come to `LO`. -/
theorem State.ClampsSigned.gets_settle (h : s.ClampsSigned) (hle : s.val.toInt ≤ s.hi.toInt)
    {n : Nat} (hn : 3 ≤ n) (d : RawBus) : (serveAll (gets n d) s).1.val = s.lo := by
  have ⟨_, heq⟩ := h.bounds
  rcases le_or_gt s.val.toInt 0 with hnonpos | hpos
  · exact (h.gets_of_nonpos hnonpos n d).2 (by omega)
  rcases le_or_gt s.val.toInt (-s.lo.toInt) with hmid | habove
  · exact (h.gets_of_le_neg_lo hpos hmid n d).2 (by omega)
  · exact (h.gets_of_hi (by omega) n d).2 hn

/-- A GET moves every value but `LO`. -/
theorem State.ClampsSigned.enc65_eq_val_iff (h : s.ClampsSigned) :
    enc65 (normalizeHere s.val.toInt s) = s.val ↔ s.val.toInt = s.lo.toInt := by
  obtain ⟨hneg, -⟩ := h.bounds
  rw [← BitVec.toInt_inj, enc65_normalizeHere_toInt h.configured, h.normalizeHere_eq,
    clampSigned_eq_self_iff hneg h.lo_lt_hi]

/-- A GET answers `VAL` as it was exactly at `LO`. -/
theorem State.ClampsSigned.get_rsp_eq_iff (h : s.ClampsSigned) (d : RawBus) :
    (served d s.val.toInt s).rsp = some ⟨.ok, s.val, 0#65⟩ ↔ s.val = s.lo := by
  have hmoved := h.enc65_eq_val_iff
  rw [served_rsp h.constructed, served_val h.constructed]
  simpa only [Option.some.injEq, Response.mk.injEq, true_and, and_true, BitVec.toInt_inj]
    using hmoved

/-- An operand above 0 is stored above `LO`. -/
theorem State.ClampsSigned.served_val_eq_lo_iff (h : s.ClampsSigned) (d : RawBus) (raw : Int) :
    (served d raw s).val = s.lo ↔ raw ≤ 0 := by
  have hlt := h.lo_lt_hi
  rw [← BitVec.toInt_inj, h.val_eq, clampSigned_eq_ite hlt]
  split_ifs <;> omega

end Sys2Proof.Machine
end

section
/-! ## The statements on reading -/

namespace Sys2Proof.Machine

/-- Settles O29: a member of the range is fixed by every form but the signed Clamp, whose three kinds
of value are followed down to `LO`. -/
theorem effectOfRepeatedGets : Obligations.EffectOfRepeatedGets := by
  intro s d n hs hc
  have ⟨hconf, hge, hle, hwrap⟩ := consistent_iff.1 hs hc
  have hexec : exec .get s = .next (commitValue (normalizeHere s.val.toInt s) s) :=
    congrArg Host.Outcome.next (accessValue_of_constructed hc s.val.toInt)
  refine ⟨⟨serveAll_gets_ok hc n d, serveAll_gets_length n d s⟩, fun hns => ?_, fun hsc => ?_⟩
  · have hfix := normalizeHere_val_of_not_signedClamp hs hc hns
    obtain ⟨hlast, -⟩ := serveAll_gets_of_fixed hc hfix n d
    refine ⟨fun hp => ⟨hge, Int.le_sub_one_of_lt (hwrap hp)⟩, fun hp => ⟨?_, hle⟩, ?_, hlast,
      readings_of_fixed hc hfix n d⟩
    · rwa [lo_eq_zero_of_not_signedClamp hconf hns hp] at hge
    · rw [hexec, hfix, commitValue, respond, enc65, BitVec.ofInt_toInt]
      rfl
  · have hclamp : s.ClampsSigned := ⟨hc, hconf, hsc⟩
    exact ⟨⟨_, (enc65_normalizeHere_toInt hconf _).trans (hclamp.normalizeHere_eq _), hexec,
        hclamp.enc65_eq_val_iff⟩,
      fun hy => (hclamp.gets_of_nonpos hy n d).1,
      fun hpos hy => (hclamp.gets_of_le_neg_lo hpos hy n d).1,
      fun hy => (hclamp.gets_of_hi hy n d).1, fun hn => hclamp.gets_settle hle hn d⟩

/-- Settles O30: the value written is a member of the range, so a GET after it does what O29 says. -/
theorem whenReadingReturnsTheWrittenValue : Obligations.WhenReadingReturnsTheWrittenValue := by
  intro s x d n hs hc
  simp only [serve_set, serve_get]
  have hconf : s.Configured := (consistent_iff.1 hs hc).1
  have ht := served_consistent hs x x.toInt
  have ⟨hconstructed, hcfg, _⟩ := served_sameConfiguration x x.toInt s
  have htc := hconstructed.trans hc
  have hrsp := served_rsp hc x x.toInt
  refine ⟨hrsp, served_val_toInt hc hconf x x.toInt, fun hns => ?_, fun hsc => ?_,
    served_valueInRange hs hc x x.toInt, served_valueInRange ht htc d _, served_rsp htc d _⟩
  · have hns' : ¬ (served x x.toInt s).SignedClamp := by rwa [State.SignedClamp, hcfg]
    exact serveAll_gets_of_fixed htc (normalizeHere_val_of_not_signedClamp ht htc hns') n d
  · have hclamp : s.ClampsSigned := ⟨hc, hconf, hsc⟩
    rw [hrsp, (hclamp.keeps x x.toInt).get_rsp_eq_iff, served_lo]
    exact ⟨Iff.rfl, hclamp.served_val_eq_lo_iff x x.toInt⟩

end Sys2Proof.Machine
end

/-! # The variant catalog: the words of a named variant, and its display string

Proofs of the statements on 43_variant_catalog.md. The words of a variant follow from its `CFG` image
at every width the field `BITS` can hold, so what is left of the table is its tags and its numbers. -/

section
/-! ## The rows of the catalog (R110, R111) -/

namespace Sys2Proof.Machine

/-- The 9-bit image of a configuration as a number, laid out as R12 says. -/
def Variant.image (v : Variant) : Nat := v.pol.bit * 256 + v.sgn.bit * 128 + v.bits

/-- A row of R110's table: the tag, `CFG`, and the words of CONS and CONSZ, which are an opcode
above the image of `CFG`. -/
def Variant.tableRow (v : Variant) : String × Nat × Nat × Nat :=
  (v.tag, v.image, 0x1000 + v.image, 0x2000 + v.image)

theorem cfgOf_word_toNat {v : Variant} (h : v.bits ≤ 127) :
    (cfgOf v.bits v.sgn v.pol).word.toNat = v.image := by
  have hp := v.pol.bit_le_one
  have hg := v.sgn.bit_le_one
  have hlow : v.sgn.bit <<< 7 ||| v.bits = v.sgn.bit * 128 + v.bits := by
    rw [← Nat.shiftLeft_add_eq_or_of_lt (Nat.lt_succ_of_le h), Nat.shiftLeft_eq]
  have hlt : v.sgn.bit * 128 + v.bits < 2 ^ 8 := by omega
  calc (cfgOf v.bits v.sgn v.pol).word.toNat
      = v.pol.bit <<< 8 ||| (v.sgn.bit <<< 7 ||| v.bits) := by
        simp only [Cfg.word, cfgOf, BitVec.toNat_append, BitVec.toNat_ofNat,
          Nat.mod_eq_of_lt (Nat.lt_succ_of_le hp), Nat.mod_eq_of_lt (Nat.lt_succ_of_le hg),
          Nat.mod_eq_of_lt (Nat.lt_succ_of_le h), Nat.pow_one]
    _ = v.pol.bit * 256 + (v.sgn.bit * 128 + v.bits) := by
        rw [hlow, ← Nat.shiftLeft_add_eq_or_of_lt hlt, Nat.shiftLeft_eq]
    _ = v.image := by rw [Variant.image, Nat.add_assoc]

theorem toNat_encode_construction_true {v : Variant} (h : v.bits ≤ 127) :
    (encode (v.construction true)).toNat = 0x1000 + v.image := by
  have hword := toNat_encode_cons v.pol v.sgn h
  simp only [Variant.construction, if_true, hword, Variant.image]
  omega

theorem toNat_encode_construction_false {v : Variant} (h : v.bits ≤ 127) :
    (encode (v.construction false)).toNat = 0x2000 + v.image := by
  have hword := toNat_encode_consz v.pol v.sgn h
  simp only [Variant.construction, Bool.false_eq_true, if_false, hword, Variant.image]
  omega

/-- The width of every named variant fits the field `BITS`. -/
theorem bits_le_of_mem_catalog : ∀ v ∈ catalog, v.bits ≤ 127 := by decide

/-- Settles O48: each variant gives its `tableRow`, and the sixteen rows are those of the table. -/
theorem catalogMatchesTheTable : Obligations.CatalogMatchesTheTable := by
  have hrow : ∀ v ∈ catalog, (v.tag, (cfgOf v.bits v.sgn v.pol).word.toNat,
      (encode (v.construction true)).toNat, (encode (v.construction false)).toNat) =
        v.tableRow := by
    intro v hv
    have hbits := bits_le_of_mem_catalog v hv
    rw [cfgOf_word_toNat hbits, toNat_encode_construction_true hbits,
      toNat_encode_construction_false hbits, Variant.tableRow]
  exact (List.map_congr_left hrow).trans (by decide)

end Sys2Proof.Machine
end

section
/-! ## The display string (R113) -/

namespace Sys2Proof.Machine

/-- A GET of an instance returns the value it stores (R94). -/
theorem get_rsp_of_constructed {s t : State} (hc : s.constructed = true)
    (h : exec .get s = .next t) : t.rsp = some ⟨.ok, t.val, 0#65⟩ := by
  rw [exec_rsp h, Instr.status, if_pos hc, answerOf_ok, Instr.result]

/-- The display string of a named instance is its tag and the data of a GET answered Ok. -/
theorem displayInstance_of_get {s t : State} {v : Variant} {y z : ValWord}
    (h : exec .get s = .next t) (hrsp : t.rsp = some ⟨.ok, y, z⟩)
    (hv : variantOfCfg s.cfg = some v) :
    displayInstance s = .next (t, some (display v.tag y.toInt)) := by
  have hget : execGet s = .next t := h
  simp only [displayInstance, hget, hrsp, hv, sint65_eq_toInt]

/-- Settles O50: the GET of an instance returns the value it stores, and the host prints that. -/
theorem displayPerformsAGet : Obligations.DisplayPerformsAGet := by
  intro s v hc hv
  obtain ⟨t, ht⟩ := exec_answers .get s
  exact ⟨t, ht, displayInstance_of_get ht (get_rsp_of_constructed hc ht) hv⟩

end Sys2Proof.Machine
end

/-! # The refusals: which words and commands are refused, and what a refusal leaves

Proofs of the statements on 60_exceptions.md. First the words that are illegal; then a refused
command as a whole state, its refusal given by `Instr.status`; then a refused step, and the step
after it. -/

section
/-! ## The illegal words (R45, R122) -/

namespace Sys2Proof

/-- The word spells no command (R45): an unassigned opcode, a non-zero `RSV`, or a non-zero field
that its opcode does not use. -/
def IllegalWord (w : CmdWord) : Prop :=
  (opField w = 0 ∨ 6 ≤ opField w) ∨ rsvField w ≠ 0 ∨
    ((opField w = 3 ∨ opField w = 4) ∧
      (polField w = true ∨ sgnField w = true ∨ bitsField w ≠ 0)) ∨
    (opField w = 5 ∧ polField w = true)

theorem decode_of_access_opcode {w : CmdWord} (hop : opField w = 3 ∨ opField w = 4) :
    ∃ i, decode w = if rsvField w ≠ 0 then .error .reservedBits else decodePlain w i := by
  obtain hop | hop := hop
  · exact ⟨.set, by simp [decode, hop]⟩
  · exact ⟨.get, by simp [decode, hop]⟩

theorem decodePlain_eq_none_iff (w : CmdWord) (i : Instr) :
    (decodePlain w i).toOption = none ↔
      polField w = true ∨ sgnField w = true ∨ bitsField w ≠ 0 := by
  rw [decodePlain]
  split_ifs with hused
  · exact iff_of_true rfl (by simpa [or_assoc] using hused)
  · exact iff_of_false nofun (by simpa [or_assoc] using hused)

/-- Opcodes 0x3 and 0x4 use no field, so any field that is not zero makes their words illegal. -/
theorem decode_eq_none_iff_fields_of_access_opcode {w : CmdWord}
    (hop : opField w = 3 ∨ opField w = 4) : (decode w).toOption = none ↔
      rsvField w ≠ 0 ∨ polField w = true ∨ sgnField w = true ∨ bitsField w ≠ 0 := by
  obtain ⟨i, hd⟩ := decode_of_access_opcode hop
  rw [hd]
  split_ifs with hrsv
  · exact iff_of_true rfl (.inl hrsv)
  · rw [decodePlain_eq_none_iff]
    exact (or_iff_right hrsv).symm

/-- A command has one of the opcodes 0x1 to 0x5. -/
theorem decode_eq_none_of_unassigned_opcode {w : CmdWord} (hop : opField w = 0 ∨ 6 ≤ opField w) :
    (decode w).toOption = none := by
  cases hd : decode w with
  | error e => rfl
  | ok i =>
    rw [opField_of_decode hd] at hop
    cases i <;> simp [Instr.fields] at hop

theorem decode_eq_none_iff_illegalWord (w : CmdWord) :
    (decode w).toOption = none ↔ IllegalWord w := by
  obtain hop | hop | hop | hop : (opField w = 0 ∨ 6 ≤ opField w) ∨
      (opField w = 1 ∨ opField w = 2) ∨ (opField w = 3 ∨ opField w = 4) ∨ opField w = 5 := by omega
  · exact iff_of_true (decode_eq_none_of_unassigned_opcode hop) (.inl hop)
  · rw [decode_eq_none_iff_of_construction_opcode hop]
    obtain hop | hop := hop <;> simp [IllegalWord, hop]
  · rw [decode_eq_none_iff_fields_of_access_opcode hop]
    obtain hop | hop := hop <;> simp [IllegalWord, hop]
  · rw [decode_eq_none_iff_of_range_opcode hop]
    simp [IllegalWord, hop]

/-- The rows of the table are the words of the commands. -/
theorem selects_no_row_iff (w : CmdWord) :
    (∀ row ∈ opcodeTable, row.selects w = false) ↔ (decode w).toOption = none := by
  cases hd : decode w with
  | error e =>
    have hnone := List.find?_eq_none.1 (Machine.find?_row_of_decode_error hd)
    exact iff_of_true (fun row hrow => Bool.eq_false_iff.2 (hnone row hrow)) rfl
  | ok i =>
    obtain ⟨row, hrow, -, hsel⟩ := selects_of_decode hd
    exact iff_of_false (fun hnone => Bool.eq_false_iff.1 (hnone row hrow) hsel) nofun

end Sys2Proof
end

section
/-! ## A refused command (R123, R124, R126) -/

namespace Sys2Proof

/-- A command that decoded is never answered IllegalCmd. -/
theorem Instr.status_ne_illegalCmd (i : Instr) (c : Bool) : i.status c ≠ .illegalCmd := by
  cases i <;> simp only [Instr.status] <;> split <;> nofun

/-- The four commands with a `BITS` field are checked by it alone (R51). -/
theorem Instr.status_of_bits {p : Policy} {g : Family} {b : Nat} {i : Instr}
    (hi : i ∈ [Instr.cons p g b, .consz p g b, .urange b, .srange b]) (c : Bool) :
    i.status c = if Machine.bitsLegal b then .ok else .badBits := by
  simp only [List.mem_cons, List.not_mem_nil, or_false] at hi
  obtain rfl | rfl | rfl | rfl := hi <;> rfl

/-- SET and GET are checked by `CONSTRUCTED` alone (R51). -/
theorem Instr.status_of_access {i : Instr} (hi : i ∈ [Instr.set, .get]) (c : Bool) :
    i.status c = if c then .ok else .notConstructed := by
  simp only [List.mem_cons, List.not_mem_nil, or_false] at hi
  obtain rfl | rfl := hi <;> rfl

theorem Instr.constructed_of_status_notConstructed {i : Instr} {c : Bool}
    (h : i.status c = .notConstructed) : c = false ∧ (i = .set ∨ i = .get) := by
  have hbits : ∀ b, (if Machine.bitsLegal b then Machine.Status.ok else .badBits) ≠
      .notConstructed := fun b => by split <;> nofun
  cases i with
  | cons p g b | consz p g b | urange b | srange b => exact absurd h (hbits b)
  | set | get => simpa [Instr.status] using h

end Sys2Proof

namespace Sys2Proof.Machine

/-- A command whose check fails raises the refusal of that check, and does no more (R126). -/
theorem exec_of_refused_status {i : Instr} {s : State} {c : Status} (h : i.status s.constructed = c)
    (hc : c ≠ .ok) : exec i s = .next (raiseRefusal c s) := by
  subst h
  cases i with
  | cons p g b | consz p g b | urange b | srange b =>
    have hb : bitsLegal b = false := by simpa [Instr.status] using hc
    simp [exec, execCons, execConsz, execUrange, execSrange, construct_of_not_legal hb,
      queryRange_of_not_legal hb, Instr.status, hb]
  | set | get =>
    have hnone : s.constructed = false := by simpa [Instr.status] using hc
    simp [exec, execSet, execGet, accessValue_of_not_constructed hnone, Instr.status, hnone]

/-- Every command answers with the status of its check. -/
theorem exec_answers_status (i : Instr) (s : State) :
    ∃ t r, exec i s = .next t ∧ t.rsp = some r ∧ r.status = i.status s.constructed := by
  obtain ⟨t, ht⟩ := exec_answers i s
  exact ⟨t, _, ht, exec_rsp ht, answerOf_status _ _⟩

theorem status_of_exec {i : Instr} {s t : State} {r : Response} (h : exec i s = .next t)
    (hr : t.rsp = some r) : r.status = i.status s.constructed := by
  obtain rfl := Option.some.inj ((exec_rsp h).symm.trans hr)
  exact answerOf_status _ _

/-- Settles O9: the check of these four commands is `bitsLegal`, and SET and GET have another. -/
theorem badBitsIsRefused : Obligations.BadBitsIsRefused := by
  refine ⟨fun p g b s i hi => ⟨fun hb => ?_, fun hpos hle => ?_⟩, fun s i hi => ?_⟩
  · have hstatus : i.status s.constructed = .badBits := by
      rw [Instr.status_of_bits hi, (bitsLegal_eq_false_iff b).2 hb]
      rfl
    exact exec_of_refused_status hstatus nofun
  · have hstatus : i.status s.constructed = .ok := by
      rw [Instr.status_of_bits hi, if_pos ((bitsLegal_iff b).2 ⟨hpos, hle⟩)]
    exact hstatus ▸ exec_answers_status i s
  · obtain ⟨t, r, ht, hr, hstatus⟩ := exec_answers_status i s
    refine ⟨t, r, ht, hr, ?_⟩
    rw [hstatus, Instr.status_of_access hi]
    split <;> nofun

/-- Settles O10: SET and GET check `CONSTRUCTED`, and no other command does. -/
theorem notConstructedIsRefused : Obligations.NotConstructedIsRefused := by
  refine ⟨fun s hc i hi => ?_, fun i s t r ht hr hstatus => ?_⟩
  · have hstatus : i.status s.constructed = .notConstructed := by
      rw [Instr.status_of_access hi, hc]
      rfl
    exact exec_of_refused_status hstatus nofun
  · exact Instr.constructed_of_status_notConstructed ((status_of_exec ht hr).symm.trans hstatus)

end Sys2Proof.Machine
end

section
/-! ## A refused step (R122, R126) -/

namespace Sys2Proof.Machine

/-- Settles O8: the words outside the table are those that decode to nothing, and a command that
decodes is answered with another status. -/
theorem illegalWordIsRefused : Obligations.IllegalWordIsRefused := by
  intro s w d rest hs
  rw [selects_no_row_iff]
  refine ⟨decode_eq_none_iff_illegalWord w, ?_⟩
  cases hd : decode w with
  | error e => exact ⟨fun _ => step_of_decode_error hs hd, fun _ _ _ _ _ => rfl⟩
  | ok i =>
    refine ⟨nofun, fun t r ht hr hstatus => ?_⟩
    have hexec := (step_of_decode_ok hs hd).symm.trans ht
    exact absurd ((status_of_exec hexec hr).symm.trans hstatus) (i.status_ne_illegalCmd _)

/-- A step that refuses its command accepts it and raises the refusal, and does no more. -/
theorem eq_raiseRefusal_of_step {s t : State} {w : CmdWord} {d : RawBus} {rest : List HostEvent}
    {r : Response} (hs : s.host = .command w d :: rest) (ht : step s = .next t)
    (hr : t.rsp = some r) (hne : r.status ≠ .ok) :
    t = raiseRefusal r.status (accept d rest s) := by
  cases hd : decode w with
  | error e =>
    obtain rfl := Host.Outcome.next.inj ((step_of_decode_error hs hd).symm.trans ht)
    obtain rfl := Option.some.inj hr
    rfl
  | ok i =>
    have hexec := (step_of_decode_ok hs hd).symm.trans ht
    have hrefused := exec_of_refused_status (status_of_exec hexec hr).symm hne
    exact Host.Outcome.next.inj (hexec.symm.trans hrefused)

end Sys2Proof.Machine
end

section
/-! ## The step after a refusal (R126) -/

namespace Sys2Proof.Machine

/-- The block as it is, with `x` on its response port. -/
def State.withRsp (s : State) (x : Option Response) : State := { s with rsp := x }

theorem construct_withRsp (b : Nat) (g : Family) (p : Policy) (raw : Int) (x : Option Response)
    (s : State) : construct b g p raw (s.withRsp x) = construct b g p raw s := by
  cases h : bitsLegal b with
  | true => simp only [construct_of_legal h]; rfl
  | false => simp only [construct_of_not_legal h]; rfl

theorem accessValue_withRsp (raw : Int) (x : Option Response) (s : State) :
    accessValue raw (s.withRsp x) = accessValue raw s := by
  have hsame : (s.withRsp x).constructed = s.constructed := rfl
  cases h : s.constructed with
  | true => rw [accessValue_of_constructed h, accessValue_of_constructed (hsame.trans h)]; rfl
  | false =>
    rw [accessValue_of_not_constructed h, accessValue_of_not_constructed (hsame.trans h)]; rfl

theorem queryRange_withRsp (b : Nat) (g : Family) (x : Option Response) (s : State) :
    queryRange b g (s.withRsp x) = queryRange b g s := by
  cases h : bitsLegal b with
  | true => simp only [queryRange_of_legal h]; rfl
  | false => simp only [queryRange_of_not_legal h]; rfl

/-- A command overwrites the response port without reading it (R19). -/
theorem exec_withRsp (i : Instr) (x : Option Response) (s : State) :
    exec i (s.withRsp x) = exec i s := by
  cases i with
  | cons p g b => exact congrArg Host.Outcome.next (construct_withRsp b g p (dataOperand s) x s)
  | consz p g b => exact congrArg Host.Outcome.next (construct_withRsp b g p 0 x s)
  | set => exact congrArg Host.Outcome.next (accessValue_withRsp (dataOperand s) x s)
  | get => exact congrArg Host.Outcome.next (accessValue_withRsp (sint65 s.val) x s)
  | urange b => exact congrArg Host.Outcome.next (queryRange_withRsp b .unsigned x s)
  | srange b => exact congrArg Host.Outcome.next (queryRange_withRsp b .signed x s)

/-- The step that serves an event does not read what the last one left on the two ports. -/
theorem step_withPorts_cons (s : State) (d : RawBus) (x : Option Response) (e : HostEvent)
    (es : List HostEvent) :
    step { s with cmdData := d, rsp := x, host := e :: es } = step { s with host := e :: es } := by
  cases e with
  | reset => rw [step_of_reset rfl, step_of_reset rfl]
  | command w d' =>
    cases hd : decode w with
    | error r => rw [step_of_decode_error rfl hd, step_of_decode_error rfl hd]; rfl
    | ok i =>
      rw [step_of_decode_ok rfl hd, step_of_decode_ok rfl hd]
      exact exec_withRsp i x (accept d' es s)

/-- Settles O12: the refused step is `raiseRefusal`, which writes the two ports alone, and the next
event overwrites what it left there. -/
theorem refusedCommandChangesNothing : Obligations.RefusedCommandChangesNothing := by
  intro s t w d rest r hs ht hr hne
  obtain rfl := eq_raiseRefusal_of_step hs ht hr hne
  exact ⟨rfl, step_withPorts_cons s d _⟩

end Sys2Proof.Machine
end

/-! # Reset, the duty of the host at the port, and what the two policies cannot store

Proofs of the statements on 70_reset_and_hazards.md. First the edges of the cycle-level block that end a
command in flight, then a write to a signed Clamp instance, then one under Wrap. -/

section
/-! ## Reset, and a command while the port is busy (R140 to R142, R147) -/

namespace Sys2Proof.Machine

/-- Settles O43: a served reset is `resetBlock`, whatever the registers were. -/
theorem resetEndsTheInstance : Obligations.ResetEndsTheInstance := fun _ rest hs =>
  ⟨resetBlock rest, step_of_reset hs, rfl, rfl, rfl⟩

@[simp] theorem outputs_cmdReady (b : Block) (p : PinsIn) :
    (outputs b p).cmdReady = cmdReadyNow b p.rst := by
  unfold outputs
  split <;> rfl

@[simp] theorem outputs_rspValid (b : Block) (p : PinsIn) :
    (outputs b p).rspValid = (rspNow b p.rst).isSome := by
  unfold outputs
  split <;> next h => rw [h]; rfl

@[simp] theorem cmdReadyNow_of_rst (b : Block) : cmdReadyNow b true = false := rfl

/-- `rst` masks the response even in the response cycle of a flight (R141). -/
@[simp] theorem rspNow_of_rst (b : Block) : rspNow b true = none := by
  cases h : b.flight <;> simp [rspNow, h]

theorem cmdReadyNow_of_flight {b : Block} {f : Flight} (h : b.flight = some f) (rst : Bool) :
    cmdReadyNow b rst = false := by
  simp [cmdReadyNow, h]

theorem edge_of_rst (b : Block) {p : PinsIn} (h : p.rst = true) :
    edge b p = .next ⟨resetBlock b.arch.host, none, b.accepted, b.cycle + 1⟩ := by
  simp [edge, h]

theorem edge_of_busy {b : Block} {p : PinsIn} {f : Flight} (hflight : b.flight = some f)
    (hrst : p.rst = false) (hvalid : p.cmdValid = true) :
    edge b p = .fault .commandWhileBusy := by
  simp [edge, hrst, hflight, hvalid]

/-- Settles O46: `rst` is looked at before the flight, by the outputs and by the edge. -/
theorem portResetDropsTheCommand : Obligations.PortResetDropsTheCommand := fun b p hrst =>
  ⟨by rw [outputs_cmdReady, hrst, cmdReadyNow_of_rst],
    by rw [outputs_rspValid, hrst, rspNow_of_rst, Option.isSome_none],
    _, edge_of_rst b hrst, rfl, rfl⟩

/-- Settles O47: a flight keeps `cmd_ready` low, and the edge faults on a second command. -/
theorem commandWhileBusyFaults : Obligations.CommandWhileBusyFaults :=
  fun b p _ hflight hrst hvalid =>
    ⟨(outputs_cmdReady b p).trans (cmdReadyNow_of_flight hflight p.rst),
      edge_of_busy hflight hrst hvalid⟩

end Sys2Proof.Machine
end

section
/-! ## A write to a signed Clamp instance (R146) -/

namespace Sys2Proof.Machine

/-- Nothing from `lo` up is moved up: it goes to `lo`, to `raw + lo`, or down to `hi`. -/
theorem clampSigned_le_self {raw lo hi : Int} (hneg : lo < 0) (hlt : lo < hi) (h : lo ≤ raw) :
    clampSigned raw lo hi ≤ raw := by
  rw [clampSigned_eq_ite hlt]
  split_ifs <;> omega

/-- The second application cannot make up for what the first took away. -/
theorem clampSigned_clampSigned_eq_self_iff {raw lo hi : Int} (hneg : lo < 0) (hlt : lo < hi)
    (h : lo ≤ raw) : clampSigned (clampSigned raw lo hi) lo hi = raw ↔ raw = lo := by
  have hfixed := clampSigned_eq_self_iff (raw := raw) hneg hlt
  refine ⟨fun htwice => hfixed.1 (le_antisymm (clampSigned_le_self hneg hlt h) ?_), fun hraw => ?_⟩
  · obtain ⟨hmem, -⟩ := boundedImage_mem raw .clamp hlt
    calc raw = clampSigned (clampSigned raw lo hi) lo hi := htwice.symm
      _ ≤ clampSigned raw lo hi := clampSigned_le_self hneg hlt hmem
  · rw [hfixed.2 hraw, hfixed.2 hraw]

/-- A write and a GET after it apply normalize twice. -/
theorem State.ClampsSigned.served_served_val_eq {s : State} (h : s.ClampsSigned) (x d : RawBus)
    (raw : Int) :
    (served d (served x raw s).val.toInt (served x raw s)).val.toInt =
      clampSigned (clampSigned raw s.lo.toInt s.hi.toInt) s.lo.toInt s.hi.toInt := by
  obtain ⟨-, -, hlo, hhi⟩ := served_sameConfiguration x raw s
  rw [(h.keeps x raw).val_eq, hlo, hhi, h.val_eq]

/-- Settles O31: the write stores `clampSigned` of the operand, and the GET applies it once more. -/
theorem signedClampWriteStoresTheOffset : Obligations.SignedClampWriteStoresTheOffset := by
  intro s x d hs hc hsc
  have h : s.ClampsSigned := ⟨hc, (consistent_iff.1 hs hc).1, hsc⟩
  have ⟨hneg, _⟩ := h.bounds
  have hlt := h.lo_lt_hi
  simp only [serve_set, serve_get]
  rw [h.served_served_val_eq, h.val_eq]
  refine ⟨rfl, clampSigned_of_nonpos hlt, fun hpos hbelow => ?_, clampSigned_of_width_le hlt,
    fun hge _ => clampSigned_clampSigned_eq_self_iff hneg hlt hge⟩
  rw [clampSigned_of_mem_width hpos.le hbelow.le, add_comm]

end Sys2Proof.Machine
end

section
/-! ## A write under Wrap (R145) -/

namespace Sys2Proof.Machine

theorem State.Configured.lo_lt_hi {s : State} (h : s.Configured) : s.lo.toInt < s.hi.toInt := by
  obtain ⟨hbits, hlo, hhi⟩ := h
  rw [hlo, hhi]
  exact lowerBound_lt_upperBound hbits _

theorem State.Configured.hi_sub_lo {s : State} (h : s.Configured) :
    s.hi.toInt - s.lo.toInt = 2 ^ s.cfg.bits.toNat - 1 := by
  obtain ⟨hbits, hlo, hhi⟩ := h
  rw [hlo, hhi, upperBound_sub_lowerBound hbits]

theorem State.Configured.normalizeHere_of_wrap {s : State} (h : s.Configured)
    (hp : s.cfg.pol = .wrap) (raw : Int) :
    normalizeHere raw s = boundedImage raw s.lo.toInt s.hi.toInt .wrap := by
  have ⟨_, hlo, hhi⟩ := h
  rw [normalizeHere_eq_boundedIn h, boundedIn, ← hlo, ← hhi, hp]

/-- Settles O32: `HI` is one width above `LO`, and Wrap forgets whole widths. -/
theorem wrapCannotStoreHi : Obligations.WrapCannotStoreHi := by
  intro s x x' k hs hc hp
  have hconf : s.Configured := (consistent_iff.1 hs hc).1
  simp only [serve_set]
  refine ⟨fun hx => ?_, fun hx' => ?_⟩
  · rw [← BitVec.toInt_inj, served_val_toInt hc hconf, hconf.normalizeHere_of_wrap hp, hx]
    exact boundedImage_wrap_hi hconf.lo_lt_hi
  · rw [served_val hc, served_val hc, hconf.normalizeHere_of_wrap hp,
      hconf.normalizeHere_of_wrap hp, hx', ← hconf.hi_sub_lo, boundedImage_wrap_add_mul_width]

end Sys2Proof.Machine
end
